-- ==== Sys2Proof/Word.lean ====
section
/-!
DEFINITION. The two word types of the core: every position, length and count is 32 bits wide and unsigned,
every memory access is one byte (spec/00 R7, spec/20 R48).
-/

namespace Sys2Proof

/-- A byte: an 8-bit value (spec/00 R7). -/
abbrev Byte := BitVec 8

/-- A position, length, count or host register: 32 bits, unsigned (spec/00 R7). -/
abbrev Word := BitVec 32

end Sys2Proof
end

