-- ==== Sys2Proof/Config.lean ====
section
/-!
DEFINITION. What one implementation of the core fixes: the OPEN parameters of spec/00 R6 and the free values of the
model. The constants below `Params` that have no body are opaque: nothing can be proved about their value.
-/

namespace Sys2Proof

/-- A row (S, M, L) of one of the two width tables (spec/41 R83, R84): the widths in bits of the small, medium and large
value field. A row carries the fit condition of R85, so tables that break it cannot be built: that is how the model
refuses such a configuration (spec/93 U6). -/
structure Row where
  small  : Nat := 0
  medium : Nat := 0
  large  : Nat := 0
  fits   : 2 ^ small + 2 ^ medium + 2 ^ large ≤ 2 ^ 32 := by decide
deriving DecidableEq, Repr, Inhabited

/-- The default the spec gives for `MAGIC` (spec/00 R6, spec/92 D23). -/
def defaultMagic : Word := 0x44487032

/-- The OPEN parameters of the core (spec/00 R6), with the defaults the spec gives for two of them; fixed for one machine. `State` holds them in a field no step writes, so
that a claim about every state is a claim about every configuration; log entry 3. -/
structure Params where
  /-- `OFFSET_TABLE[m][k]`, 9 pack modes by 4 kinds (spec/41 R83). -/
  offsetTable : Vector (Vector Row 4) 9
  /-- `LITLEN_TABLE[k]`, 4 kinds (spec/41 R84). -/
  litLenTable : Vector Row 4
  /-- `MAX_BUF`: how many bytes of `BUF` exist, 0 to 2^32 - 1 (spec/00 R6). -/
  maxBuf      : Word
  /-- `HAS_VERIFY`: whether the verification comparator is present; default true (spec/00 R6, spec/93 I3). -/
  hasVerify   : Bool := true
  /-- `MAGIC`: the format's tag, used by the host only (spec/44 R122). -/
  magic       : Word := defaultMagic
deriving DecidableEq, Repr, Inhabited

/-- The parameters of the machine that `State.reset` describes: OPEN in the spec, so a free value (log entry 3). -/
opaque Config.params : Params

/-- The content of `BUF` after power-up, address by address: any value (spec/93 U2; log entry 2). -/
opaque Config.powerUpBuf : Nat → Byte

/-- The content of `EXP` after power-up, address by address: any value (spec/93 U2; log entry 2). -/
opaque Config.powerUpExp : Nat → Byte

/-- At which boundary between two primitives of the decode the n-th host read of `RPOS`, `WPOS` or `SREG` made while BUSY
finds the register: which one is unspecified (spec/44 R119, spec/93 U3; log entry 7). A boundary is named by two numbers, see
`Machine.State.boundary`. -/
opaque Config.busyRead : Nat → Nat × Nat

end Sys2Proof
end

