-- ==== Sys2Proof/Syntax.lean ====
section
/-!
DEFINITION. The instructions of the core: one constructor per row of spec/opcode_table.json (spec/30 R75).
-/

namespace Sys2Proof

/-- What the core decodes: the codes of the compressed stream, and the host's START command. -/
inductive Instr where
  /-- CT0, code "1": length 2, kind 0 (spec/42 R98). -/
  | ct0
  /-- CT1, code "01": length 3, kind 1 (spec/42 R99). -/
  | ct1
  /-- CT2, code "001": length 4, kind 2 (spec/42 R100). -/
  | ct2
  /-- CT3, code "0001": length 5, kind 3 (spec/42 R101). -/
  | ct3
  /-- CT4, code "00001" and the 3 bits of field `X`: length 6 + x, kind 3 (spec/42 R102). -/
  | ct4 (x : BitVec 3)
  /-- CT5, code "00000" and the 8 bits of field `X`: length 14 + x, kind 3 (spec/42 R103). -/
  | ct5 (x : BitVec 8)
  /-- OFF.S, code "1" and an S-bit value (spec/41 R88). -/
  | offS (v : Word)
  /-- OFF.M, code "01" and an M-bit value (spec/41 R89). -/
  | offM (v : Word)
  /-- OFF.L, code "00" and an L-bit value (spec/41 R90). -/
  | offL (v : Word)
  /-- NL.S, code "1" and an S-bit value (spec/41 R88). -/
  | nlS (v : Word)
  /-- NL.M, code "01" and an M-bit value (spec/41 R89). -/
  | nlM (v : Word)
  /-- NL.L, code "00" and an L-bit value (spec/41 R90). -/
  | nlL (v : Word)
  /-- LITB, one literal byte of the stream (spec/30 R69, spec/43 R113). -/
  | litb (b : Byte)
  /-- START, a host write of `CTRL` with bit 0 = 1; bit 1 is `VERIFY_EN` and bit 2 `IRQ_EN` (spec/44 R121). -/
  | start (verifyEn irqEn : Bool)
deriving DecidableEq, Repr

end Sys2Proof
end

