-- ==== Sys2Proof/WellFormed.lean ====
section
/-!
DEFINITION. Which instructions an encoding can stand for. The width of a modestore value field is a column of the table
row in use (spec/30 R68), so well-formedness is relative to the two rows.
-/

namespace Sys2Proof

/-- The two rows a token's modestore fields are read with (spec/41 R92, R93). -/
structure Rows where
  off : Row
  nl  : Row
deriving DecidableEq, Repr

/-- Whether `v` fits a value field of `w` bits, that is, lies in `[0, 2^w)` (spec/30 R68). -/
def fitsWidth (w : Nat) (v : Word) : Bool := v.toNat < 2 ^ w

/-- The check of an instruction's operands; the types of the other operands have their encoded width already. -/
def Instr.wf (r : Rows) : Instr → Bool
  | .ct0 => true
  | .ct1 => true
  | .ct2 => true
  | .ct3 => true
  | .ct4 _ => true
  | .ct5 _ => true
  | .offS v => fitsWidth r.off.small v
  | .offM v => fitsWidth r.off.medium v
  | .offL v => fitsWidth r.off.large v
  | .nlS v => fitsWidth r.nl.small v
  | .nlM v => fitsWidth r.nl.medium v
  | .nlL v => fitsWidth r.nl.large v
  | .litb _ => true
  | .start _ _ => true

end Sys2Proof
end

