-- ==== Sys2Proof/Decode.lean ====
section
/-!
DEFINITION. The decoder of the compressed stream and of the START write, and the encoder. The decoder is the spec's own
pseudocode (spec/40 R79, spec/41 R87, spec/42 R97, R104) over ANY source of bits: the machine runs it on its bitstream
cursor, the tests and the encoding claims run it on a list of bits.
-/

namespace Sys2Proof

/-! ## Bits of bytes and words -/

/-- The low `n` bits of `v`, most significant first (spec/20 R50, R51). -/
def msbBits : Nat → Nat → List Bool
  | 0, _ => []
  | n + 1, v => v.testBit n :: msbBits n v

/-- The eight bits of a byte in the order the core delivers them, bit 7 first (spec/20 R50). -/
def byteBits (b : Byte) : List Bool := msbBits 8 b.toNat

/-! ## Reading fields from a source of bits -/

/-- One bit read: the bit and the source after it, or the reason there is none. -/
abbrev BitSource (ε σ : Type) := σ → Except ε (Bool × σ)

/-- The loop of `readBits(n)`: `v <- (v << 1) | readBit()`, n times, in a 32-bit accumulator (spec/40 R79). -/
def readBitsFrom {ε σ : Type} (next : BitSource ε σ) : Nat → Word → σ → Except ε (Word × σ)
  | 0, acc, st => .ok (acc, st)
  | n + 1, acc, st =>
    match next st with
    | .error e => .error e
    | .ok (b, st') => readBitsFrom next n ((acc <<< 1) ||| (if b then 1 else 0)) st'

/-- `readBits(n)` (spec/40 R79); n = 0 reads nothing and gives 0. -/
def readBits {ε σ : Type} (next : BitSource ε σ) (n : Nat) (st : σ) : Except ε (Word × σ) :=
  readBitsFrom next n 0 st

/-- The unary count of spec/42 R97: read bits while they are 0, at most `left` more of them, counting from `i`. -/
def countZeros {ε σ : Type} (next : BitSource ε σ) : Nat → Nat → σ → Except ε (Nat × σ)
  | 0, i, st => .ok (i, st)
  | left + 1, i, st =>
    match next st with
    | .error e => .error e
    | .ok (true, st') => .ok (i, st')
    | .ok (false, st') => countZeros next left (i + 1) st'

/-- `CT_MAX_ZEROS`: the count stops at 5 and no sixth bit is read (spec/00 R6, spec/42 R97). -/
def maxZeros : Nat := 5

/-- Fields `CT` and `X`: the compression-type code and its extra bits (spec/30 R66, R67, spec/42 R97, R104). -/
def decodeType {ε σ : Type} (next : BitSource ε σ) (st : σ) : Except ε (Instr × σ) :=
  match countZeros next maxZeros 0 st with
  | .error e => .error e
  | .ok (0, st') => .ok (.ct0, st')
  | .ok (1, st') => .ok (.ct1, st')
  | .ok (2, st') => .ok (.ct2, st')
  | .ok (3, st') => .ok (.ct3, st')
  | .ok (4, st') =>
    match readBits next 3 st' with
    | .error e => .error e
    | .ok (x, st'') => .ok (.ct4 (x.setWidth 3), st'')
  | .ok (_, st') =>
    match readBits next 8 st' with
    | .error e => .error e
    | .ok (x, st'') => .ok (.ct5 (x.setWidth 8), st'')

/-- A value field of `n` bits, wrapped as the instruction `mk` makes of it. -/
def decodeValue {ε σ : Type} (next : BitSource ε σ) (n : Nat) (mk : Word → Instr) (st : σ) : Except ε (Instr × σ) :=
  match readBits next n st with
  | .error e => .error e
  | .ok (v, st') => .ok (mk v, st')

/-- `modestore(row)`: the tier prefix "1", "01" or "00" and then the tier's value field (spec/41 R87). -/
def decodeModestore {ε σ : Type} (next : BitSource ε σ) (row : Row) (mkS mkM mkL : Word → Instr) (st : σ) :
    Except ε (Instr × σ) :=
  match next st with
  | .error e => .error e
  | .ok (true, st') => decodeValue next row.small mkS st'
  | .ok (false, st') =>
    match next st' with
    | .error e => .error e
    | .ok (true, st'') => decodeValue next row.medium mkM st''
    | .ok (false, st'') => decodeValue next row.large mkL st''

/-- The bit fields of a token in the order the core reads them (spec/30 R65); a modestore field comes with its row. -/
inductive Field where
  | type
  | offset (row : Row)
  | run (row : Row)
deriving DecidableEq, Repr

/-- One bit field of a token, read from any source of bits. No bit pattern is rejected (spec/30 R72): the only error is the
source's own, when it has no further bit. -/
def decodeField {ε σ : Type} (next : BitSource ε σ) : Field → σ → Except ε (Instr × σ)
  | .type => decodeType next
  | .offset row => decodeModestore next row .offS .offM .offL
  | .run row => decodeModestore next row .nlS .nlM .nlL

/-- A literal byte is the instruction LITB of that byte (spec/30 R69). -/
def decodeLiteral (b : Byte) : Instr := .litb b

/-- A word written to `CTRL` is START when its bit 0 is 1; bits 31:3 are ignored (spec/10 R28, spec/44 R121). -/
def decodeCtrl (w : Word) : Option Instr :=
  if w.getLsbD 0 then some (.start (w.getLsbD 1) (w.getLsbD 2)) else none

/-! ## Decoding and encoding bit strings -/

/-- Why a bit string holds no instruction. -/
inductive DecodeError where
  /-- The bits end inside the field. -/
  | truncated
  /-- The word is a `CTRL` write with bit 0 = 0: no START. -/
  | notStart
deriving DecidableEq, Repr

/-- A list of bits as a source of bits. -/
def listBit : BitSource DecodeError (List Bool)
  | [] => .error .truncated
  | b :: bs => .ok (b, bs)

/-- What is to be decoded: a bit field of a token, a literal byte, or a word the host writes to `CTRL`. The core's state
decides it, never the bits themselves (spec/30 R63). -/
inductive Context where
  | field (f : Field)
  | literal
  | ctrl
deriving DecidableEq, Repr

/-- The decoder, total on every bit string: an instruction and the bits after it, or a named error. -/
def decode : Context → List Bool → Except DecodeError (Instr × List Bool)
  | .field f, bits => decodeField listBit f bits
  | .literal, bits =>
    match readBits listBit 8 bits with
    | .error e => .error e
    | .ok (v, rest) => .ok (decodeLiteral (v.setWidth 8), rest)
  | .ctrl, bits =>
    match readBits listBit 32 bits with
    | .error e => .error e
    | .ok (w, rest) =>
      match decodeCtrl w with
      | none => .error .notStart
      | some i => .ok (i, rest)

/-- The context in which an instruction is decoded, given the rows in use (spec/30 R65, R69, R75). -/
def Instr.context (r : Rows) : Instr → Context
  | .ct0 => .field .type
  | .ct1 => .field .type
  | .ct2 => .field .type
  | .ct3 => .field .type
  | .ct4 _ => .field .type
  | .ct5 _ => .field .type
  | .offS _ => .field (.offset r.off)
  | .offM _ => .field (.offset r.off)
  | .offL _ => .field (.offset r.off)
  | .nlS _ => .field (.run r.nl)
  | .nlM _ => .field (.run r.nl)
  | .nlL _ => .field (.run r.nl)
  | .litb _ => .literal
  | .start _ _ => .ctrl

/-- The word of the START write: bit 0 = 1, `VERIFY_EN` in bit 1, `IRQ_EN` in bit 2, the reserved bits 0 (spec/10 R28). -/
def startWord (verifyEn irqEn : Bool) : Word :=
  1 ||| (if verifyEn then 2 else 0) ||| (if irqEn then 4 else 0)

/-- The bits of an instruction in stream order, from the code tables of spec/30 R66 to R69. -/
def encode (r : Rows) : Instr → List Bool
  | .ct0 => [true]
  | .ct1 => [false, true]
  | .ct2 => [false, false, true]
  | .ct3 => [false, false, false, true]
  | .ct4 x => [false, false, false, false, true] ++ msbBits 3 x.toNat
  | .ct5 x => [false, false, false, false, false] ++ msbBits 8 x.toNat
  | .offS v => true :: msbBits r.off.small v.toNat
  | .offM v => false :: true :: msbBits r.off.medium v.toNat
  | .offL v => false :: false :: msbBits r.off.large v.toNat
  | .nlS v => true :: msbBits r.nl.small v.toNat
  | .nlM v => false :: true :: msbBits r.nl.medium v.toNat
  | .nlL v => false :: false :: msbBits r.nl.large v.toNat
  | .litb b => byteBits b
  | .start v q => msbBits 32 (startWord v q).toNat

/-! ## Words numbered as the opcode table numbers them -/

/-- The `n` low bytes of `w`, the lowest first. -/
def lowBytes : Nat → Nat → List Byte
  | 0, _ => []
  | n + 1, w => BitVec.ofNat 8 w :: lowBytes n (w / 256)

/-- The stream bytes, in consumption order, of an instruction whose first `nbits` bits are `w`: byte by byte, the lowest
first, each delivered bit 7 first. What is left of `nbits` fills the top of one more byte; zero bytes follow, enough for the
longest code that starts a token (13 bits). Log entry 8. -/
def tableBytes (nbits w : Nat) : List Byte :=
  lowBytes (nbits / 8) w ++
    [BitVec.ofNat 8 ((w / 2 ^ (8 * (nbits / 8))) % 2 ^ (nbits % 8) * 2 ^ (8 - nbits % 8)), 0, 0]

/-- The instruction the decoder reads from an instruction word of the opcode table (log entry 8): a 32-bit word is a host
write of `CTRL`; anything else is a string of stream bytes at the start of a token, the one context in which the stream
alone decides the instruction. -/
def decodeTableWord (nbits w : Nat) : Option Instr :=
  if nbits = 32 then decodeCtrl (BitVec.ofNat 32 w)
  else
    match decode (.field .type) ((tableBytes nbits w).flatMap byteBits) with
    | .error _ => none
    | .ok (i, _) => some i

end Sys2Proof
end

