-- ==== Sys2Proof/Machine/State.lean ====
section
/-!
DEFINITION. The state of the core and of its host interface, the reasons a step can stop, and the state after reset. Every
piece of state of spec/10 is a field; INVENTORY.md lists them with their rules. `STATUS` and the `IRQ` line are read-outs of
these fields (Machine/Flags.lean).
-/

namespace Sys2Proof.Machine

/-- Bytes by address, in one canonical form: addresses strictly rising (`Memory.wf`). An unlisted address is a byte that
nothing has written since power-up; what it reads as is said by `State.bufByte` and `State.expByte`. -/
abbrev Memory := List Host.Cell

/-- `PHASE`, the program-counter analogue of the core (spec/10 R25). -/
inductive Phase where
  /-- `IDLE`: never started since reset. -/
  | idle
  /-- `PREFIX`: emitting the unpacked prefix. -/
  | prefixRun
  /-- `TOKEN`: decoding a token's bits. -/
  | token
  /-- `COPY`: back-reference copy. -/
  | copy
  /-- `LITERAL`: literal run after a token. -/
  | literal
  /-- `DONE`: the decode has ended. -/
  | done
  /-- `FAULT`: the decode was abandoned with a cause. -/
  | fault
deriving DecidableEq, Repr

/-- Which bit field of a token the core decodes next while `PHASE` is `TOKEN`: the MODEL's own name for the place in the
pseudocode of spec/42 R108 (log entry 4). -/
inductive TokenField where
  | type
  | offset
  | run
deriving DecidableEq, Repr

/-- The causes a fault of the core is taken with (spec/60 R132). -/
inductive Cause where
  | readUnderflow
  | writeUnderflow
  | backrefRange
  | backrefZero
  | integrityMismatch
  | badPmode
  | badPosition
deriving DecidableEq, Repr

/-- One move of the host (spec/44 R119 to R121, R129, spec/70 R149). A register's offset is its byte offset in the 64-byte
window (spec/20 R47); `width` is the width of the access in bits (spec/20 R52, R53). -/
inductive HostMove where
  /-- The host does nothing: the core takes one step. -/
  | wait
  /-- A read of a register. -/
  | regRead (offset : BitVec 6) (width : Nat)
  /-- A write of a register; START is the write of `CTRL` with bit 0 = 1. -/
  | regWrite (offset : BitVec 6) (width : Nat) (value : Word)
  /-- A read of one byte of `BUF`. -/
  | bufRead (addr : Word)
  /-- A write of one byte of `BUF`. -/
  | bufWrite (addr : Word) (value : Byte)
  /-- A read of one byte of `EXP`. -/
  | expRead (addr : Word)
  /-- A write of one byte of `EXP`. -/
  | expWrite (addr : Word) (value : Byte)
  /-- The host supplies an `EXP` of this many bytes (spec/44 R129). -/
  | expSupply (size : Word)
  /-- Reset is asserted. -/
  | reset
deriving DecidableEq, Repr

/-- The reasons the model stops although the spec's machine has no such event. No state that satisfies the machine's
invariant reaches one by a step of the core. -/
inductive Fault where
  /-- Raised by an access to a byte of `BUF` that does not exist: at or above `BUFLEN` by the core, at or above `MAX_BUF` by
  the host (spec/20 R44). Safe: the model stops where the spec gives no byte. -/
  | bufAddress
  /-- Raised by an access to a byte of `EXP` that does not exist: beyond the bytes the host supplied, or any byte when
  `HAS_VERIFY` is false (spec/20 R45). Safe. -/
  | expAddress
  /-- Raised by the choice of an offset row for a pack mode above 8: `OFFSET_TABLE` has no such row (spec/41 R83). Safe. -/
  | offsetTableIndex
deriving DecidableEq, Repr

/-- The reasons a step has no meaning: what the spec tells a model to refuse. -/
inductive Refusal where
  /-- An instruction whose meaning has not been written. Safe. -/
  | notModelled (mnemonic : String)
  /-- A host register access that is not an aligned 32-bit word (spec/20 R53, spec/93 U5). Safe. -/
  | registerAccess
  /-- A host access to `BUF` or `EXP` while BUSY (spec/44 R129, spec/93 U4). Safe for a host that keeps the rule; log
  entry 9. -/
  | bufferWhileBusy
  /-- A START with `BUFLEN` above `MAX_BUF` that passes the checks of R94 (spec/44 R129, spec/93 U8). Safe. -/
  | bufLenOverMax
  /-- A START with verification on and an `EXP` shorter than `WPOS` (spec/44 R129, spec/93 U7). Safe. -/
  | expShort
deriving DecidableEq, Repr

/-- The MODEL's own record of what START found: with it the boundaries of the decode can be run through again (log entry
7). -/
structure DecodeStart where
  rp   : Word
  sr   : Byte
  len  : Word
  kind : BitVec 2
  off  : Word
  nlit : Word
  buf  : Memory
deriving DecidableEq, Repr

/-- The whole machine. -/
structure State where
  /-- The configuration and the constant tables (spec/00 R6, spec/10 R41). -/
  params : Params
  /-- `RP`, host register `RPOS` (R16, R31). -/
  rp : Word
  /-- `WP`, host register `WPOS` (R17, R32). -/
  wp : Word
  /-- `SR`, host register `SREG` (R18, R36). -/
  sr : Byte
  /-- `WTOP` (R19). -/
  wtop : Word
  /-- `CNT` (R20). -/
  cnt : Word
  /-- `LEN` (R21). -/
  len : Word
  /-- `KIND` (R22). -/
  kind : BitVec 2
  /-- `OFF` (R23). -/
  off : Word
  /-- `NLIT` (R24). -/
  nlit : Word
  /-- `PHASE` (R25). -/
  phase : Phase
  /-- The MODEL's own: the field the core decodes next in `TOKEN`. -/
  tokenField : TokenField
  /-- `VERIFY` (R26). -/
  verify : Bool
  /-- `CTRL.VERIFY_EN` (R28). -/
  verifyEn : Bool
  /-- `CTRL.IRQ_EN` (R28). -/
  irqEn : Bool
  /-- `FAULT_CAUSE.CAUSE` (R30). -/
  faultCause : Byte
  /-- `BUFLEN` (R33). -/
  bufLen : Word
  /-- `PREFIX` (R34). -/
  prefixLen : Word
  /-- `PMODE` bits 7:0 (R35). -/
  pmode : Byte
  /-- `MM_POS` (R37). -/
  mmPos : Word
  /-- `MM_DATA` bits 15:0 (R38). -/
  mmData : BitVec 16
  /-- `BUF` (spec/20 R44). -/
  buf : Memory
  /-- `EXP` (spec/20 R45). -/
  exp : Memory
  /-- The MODEL's own: how many bytes of `EXP` the host has supplied (log entry 6). -/
  expLen : Word
  /-- The MODEL's own: the host's moves still to come (log entry 5). -/
  host : List HostMove
  /-- The MODEL's own: what the host's last read returned (log entry 5). -/
  hostData : Word
  /-- The MODEL's own: how many free values host reads while BUSY have used (log entry 7). -/
  freeReads : Nat
  /-- The MODEL's own: what the last START that began a decode found (log entry 7). -/
  begun : DecodeStart
deriving DecidableEq, Repr

/-- The machine right after reset (spec/70 R150). `CNT`, `LEN`, `KIND`, `OFF` and `NLIT` have no stated value: 0, log
entry 1. `BUF` and `EXP` list nothing: no byte has been written. -/
def State.reset : State where
  params := Config.params
  rp := 0
  wp := 0
  sr := 0x80
  wtop := 0
  cnt := 0
  len := 0
  kind := 0
  off := 0
  nlit := 0
  phase := .idle
  tokenField := .type
  verify := false
  verifyEn := false
  irqEn := false
  faultCause := 0
  bufLen := 0
  prefixLen := 0
  pmode := 0
  mmPos := 0
  mmData := 0
  buf := []
  exp := []
  expLen := 0
  host := []
  hostData := 0
  freeReads := 0
  begun := { rp := 0, sr := 0x80, len := 0, kind := 0, off := 0, nlit := 0, buf := [] }

end Sys2Proof.Machine
end

