-- ==== Sys2Proof/Machine/Memory.lean ====
section
/-!
DEFINITION. `BUF` and `EXP` as sparse byte arrays in one canonical form.
-/

namespace Sys2Proof.Machine

/-- The canonical form: addresses strictly rising. With it, equal memories are equal lists. An unlisted address holds no
written byte and a write always leaves one, so no entry repeats what an unlisted address holds. -/
abbrev Memory.wf (m : Memory) : Prop := (m.map Prod.fst).Pairwise (· < ·)

/-- The byte written at `a`, if one was written since power-up. -/
def Memory.lookup : Memory → Nat → Option Byte
  | [], _ => none
  | (k, b) :: m, a => if k = a then some b else Memory.lookup m a

/-- The memory with byte `v` at `a`, in canonical form if `m` is. -/
def Memory.store : Memory → Nat → Byte → Memory
  | [], a, v => [(a, v)]
  | (k, b) :: m, a, v =>
    if a < k then (a, v) :: (k, b) :: m
    else if a = k then (a, v) :: m
    else (k, b) :: Memory.store m a v

/-- One byte of `BUF`: the last byte written there, or what power-up left, a free value (spec/20 R56, spec/93 U2; log
entry 2). -/
def State.bufByte (s : State) (a : Nat) : Byte := (s.buf.lookup a).getD (Config.powerUpBuf a)

/-- One byte of `EXP`, as for `BUF`. -/
def State.expByte (s : State) (a : Nat) : Byte := (s.exp.lookup a).getD (Config.powerUpExp a)

end Sys2Proof.Machine
end

