-- ==== Sys2Proof/Machine/Flags.lean ====
section
/-!
DEFINITION. The core has no condition codes (spec/10 R40). Its only status bits are read-outs: `STATUS.STATE`,
`FAULT_CAUSE.CAUSE`, the enable bits of `CTRL` and the `IRQ` line.
-/

namespace Sys2Proof.Machine

/-- Whether `STATUS.STATE` is BUSY: `PHASE` is one of `PREFIX`, `TOKEN`, `COPY`, `LITERAL` (R29). -/
def Phase.busy : Phase → Bool
  | .idle => false
  | .prefixRun => true
  | .token => true
  | .copy => true
  | .literal => true
  | .done => false
  | .fault => false

/-- The core is BUSY (R27, R29). -/
def State.busy (s : State) : Bool := s.phase.busy

/-- `STATUS.STATE`: 0 IDLE, 1 BUSY, 2 DONE, 3 FAULT (R29). -/
def Phase.stateCode : Phase → Word
  | .idle => 0
  | .prefixRun => 1
  | .token => 1
  | .copy => 1
  | .literal => 1
  | .done => 2
  | .fault => 3

/-- The code of a cause, its class in the high nibble (spec/60 R132). -/
def Cause.code : Cause → Byte
  | .readUnderflow => 0x11
  | .writeUnderflow => 0x12
  | .backrefRange => 0x13
  | .backrefZero => 0x14
  | .integrityMismatch => 0x21
  | .badPmode => 0x31
  | .badPosition => 0x32

/-- `CTRL.VERIFY_EN`, hardwired 0 when `HAS_VERIFY` is false (R28). -/
def State.verifyEnabled (s : State) : Bool := s.verifyEn && s.params.hasVerify

/-- `VERIFY`, hardwired 0 when `HAS_VERIFY` is false (R26). -/
def State.verifying (s : State) : Bool := s.verify && s.params.hasVerify

/-- `CTRL` as the host reads it: `START` and the reserved bits read 0 (R28). -/
def State.ctrl (s : State) : Word :=
  (if s.verifyEnabled then 2 else 0) ||| (if s.irqEn then 4 else 0)

/-- The `IRQ` line: `CTRL.IRQ_EN` and the state is DONE or FAULT (spec/60 R145). -/
def State.irq (s : State) : Bool := s.irqEn && (s.phase == .done || s.phase == .fault)

end Sys2Proof.Machine
end

