-- ==== Sys2Proof/Machine/Operands.lean ====
section
/-!
DEFINITION. The operands of the stream's codes: the compression-type table, the choice of the modestore rows, the values of
the three tiers; and the fields of the register window.
-/

namespace Sys2Proof.Machine

/-- A row of `CTYPE_TABLE`; its extra-bit count is the width of the operand of the instruction itself. -/
structure TypeRow where
  base : Word
  kind : BitVec 2
deriving DecidableEq, Repr

/-- `CTYPE_TABLE`, columns base and kind (spec/41 R86); there are rows 0 to 5 only, and the count of R97 gives no other
index. -/
def ctypeRow : Nat → TypeRow
  | 0 => ⟨2, 0⟩
  | 1 => ⟨3, 1⟩
  | 2 => ⟨4, 2⟩
  | 3 => ⟨5, 3⟩
  | 4 => ⟨6, 3⟩
  | _ => ⟨14, 3⟩

/-- The length of compression type `i` with extra bits `x`: `base + x` (spec/42 R104). -/
def refLength (i : Nat) (x : Word) : Word := (ctypeRow i).base + x

/-- `OFFSET_TABLE[PMODE][KIND]` (spec/41 R92); there is no row for a pack mode above 8. -/
def State.offRow (s : State) : Option Row :=
  (s.params.offsetTable[s.pmode.toNat]?).map fun kinds => kinds[s.kind.toNat]'s.kind.isLt

/-- `LITLEN_TABLE[KIND]` (spec/41 R93). -/
def State.nlRow (s : State) : Row := s.params.litLenTable[s.kind.toNat]'s.kind.isLt

/-- The tier a modestore prefix selects (spec/41 R87). -/
inductive Tier where
  | small
  | medium
  | large
deriving DecidableEq, Repr

/-- The width of the tier's value field. -/
def tierWidth (r : Row) : Tier → Nat
  | .small => r.small
  | .medium => r.medium
  | .large => r.large

/-- What is added to the value field: 0, 2^S or 2^S + 2^M (spec/30 R70). -/
def tierBias (r : Row) : Tier → Nat
  | .small => 0
  | .medium => 2 ^ r.small
  | .large => 2 ^ r.small + 2 ^ r.medium

/-- The decoded value of a modestore field (spec/41 R88 to R90). -/
def tierValue (r : Row) (t : Tier) (v : Word) : Word := BitVec.ofNat 32 (v.toNat + tierBias r t)

/-- Offsets of the register window (R27). -/
inductive Reg where
  | ctrl
  | status
  | faultCause
  | rpos
  | wpos
  | bufLen
  | prefixLen
  | pmode
  | sreg
  | mmPos
  | mmData
  /-- An offset with no register: reads 0, ignores writes (R39). -/
  | none
deriving DecidableEq, Repr

/-- The register at an offset of the window (R27). -/
def regAt (offset : BitVec 6) : Reg :=
  match offset.toNat with
  | 0x00 => .ctrl
  | 0x04 => .status
  | 0x08 => .faultCause
  | 0x0C => .rpos
  | 0x10 => .wpos
  | 0x14 => .bufLen
  | 0x18 => .prefixLen
  | 0x1C => .pmode
  | 0x20 => .sreg
  | 0x24 => .mmPos
  | 0x28 => .mmData
  | _ => .none

/-- Whether a register access is inside the interface: an aligned 32-bit word (spec/20 R52, R53). -/
def regAccessOk (offset : BitVec 6) (width : Nat) : Bool := width == 32 && offset.toNat % 4 == 0

end Sys2Proof.Machine
end

