-- ==== Sys2Proof/Machine/Ops.lean ====
section
/-!
DEFINITION. The named updates of the state, the primitives of the core (readByte, readBit, writeByte, verifyCompare,
backrefStep), and taking a fault: ONE operation, `faultEntry`, that every instruction and every phase uses. There is no
return from a fault (spec/60 R144): only START and reset leave it.
-/

namespace Sys2Proof.Machine

/-! ## Named updates -/

/-- The fetch pointer moves (spec/30 R63). -/
def State.setCursor (s : State) (rp : Word) (sr : Byte) : State := { s with rp := rp, sr := sr }

/-- A byte lands in `BUF` at the new write position. -/
def State.putByte (s : State) (wp : Word) (v : Byte) : State :=
  { s with wp := wp, buf := s.buf.store wp.toNat v }

/-- `CNT <- n`. -/
def State.setCnt (s : State) (n : Word) : State := { s with cnt := n }

/-- `PHASE <- p`. A phase is entered at its start, so the next token field is the first one. -/
def State.setPhase (s : State) (p : Phase) : State := { s with phase := p, tokenField := .type }

/-- `KIND <- k`, as soon as the compression-type index is known (spec/42 R97). -/
def State.setKind (s : State) (k : BitVec 2) : State := { s with kind := k }

/-- `LEN` and `KIND` are known; the offset code is next (spec/42 R104, R105). -/
def State.setLength (s : State) (len : Word) (kind : BitVec 2) : State :=
  { s with len := len, kind := kind, tokenField := .offset }

/-- `OFF` is known; the literal-run code is next (spec/42 R105, R106). -/
def State.setOffset (s : State) (off : Word) : State := { s with off := off, tokenField := .run }

/-- `NLIT` is known and the token complete: `CNT <- LEN`, `PHASE <- COPY` (spec/42 R106, R107). -/
def State.setRun (s : State) (nlit : Word) : State :=
  { s with nlit := nlit, cnt := s.len, phase := .copy, tokenField := .type }

/-- `MM_POS <- a`, `MM_DATA <- (v << 8) | e` (spec/43 R112). -/
def State.setMismatch (s : State) (a : Word) (v e : Byte) : State :=
  { s with mmPos := a, mmData := v ++ e }

/-! ## Taking a fault -/

/-- Fault entry: `FAULT_CAUSE <- c`, `PHASE <- FAULT`, and nothing else (spec/60 R142). `STATUS` and `IRQ` follow, being
read-outs of `PHASE`. -/
def State.faultEntry (s : State) (c : Cause) : State := { s with faultCause := c.code, phase := .fault }

/-- Why a primitive did not complete: it raises a cause, with the state the rules of spec/60 R133 to R137 leave; or it
addresses something that does not exist. -/
inductive Stop where
  | raise (c : Cause) (s : State)
  | halt (f : Fault)
deriving DecidableEq, Repr

/-- A raised cause is taken; an address that does not exist stops the model. -/
def Stop.outcome : Stop → Host.Outcome State Fault Refusal
  | .raise c s => .next (s.faultEntry c)
  | .halt f => .fault f

/-- The outcome of a sequence of primitives. -/
def settle : Except Stop State → Host.Outcome State Fault Refusal
  | .ok s => .next s
  | .error e => e.outcome

/-! ## The bitstream cursor -/

/-- `MemRead(a, 1)` of `BUF` by the core: a byte below `BUFLEN` (spec/20 R44). -/
def bufLoad (s : State) (a : Nat) : Except Stop Byte :=
  if a < s.bufLen.toNat then .ok (s.bufByte a) else .error (.halt .bufAddress)

/-- `readByte()` (spec/40 R76). -/
def readByte (s : State) : Except Stop (Byte × State) :=
  if s.rp = 0 then .error (.raise .readUnderflow s)
  else
    match bufLoad s (s.rp - 1).toNat with
    | .error e => .error e
    | .ok b => .ok (b, s.setCursor (s.rp - 1) s.sr)

/-- `SENTINEL`, the value of `SR` that makes `readBit()` load a byte (spec/00 R6). -/
def sentinel : Byte := 0x80

/-- `readBit()`: the reload case (spec/40 R77) and the shift case (R78). -/
def readBit (s : State) : Except Stop (Bool × State) :=
  if s.sr = sentinel then
    match readByte s with
    | .error e => .error e
    | .ok (b, s') => .ok (b.getLsbD 7, s'.setCursor s'.rp (((b &&& 0x7F) <<< 1) ||| 1))
  else .ok (s.sr.getLsbD 7, s.setCursor s.rp ((s.sr &&& 0x7F) <<< 1))

/-! ## The output buffer writer -/

/-- `verifyCompare(a, v)` (spec/43 R112): `EXP` has the bytes the host supplied (spec/20 R45). -/
def verifyCompare (a : Word) (v : Byte) (s : State) : Except Stop State :=
  if a < s.expLen then
    if s.expByte a.toNat = v then .ok s
    else .error (.raise .integrityMismatch (s.setMismatch a v (s.expByte a.toNat)))
  else .error (.halt .expAddress)

/-- `writeByte(v)` (spec/43 R111): the write, then the compare when `VERIFY` is 1. -/
def writeByte (v : Byte) (s : State) : Except Stop State :=
  if s.wp = 0 then .error (.raise .writeUnderflow s)
  else if s.wp - 1 < s.bufLen then
    if s.verifying then verifyCompare (s.wp - 1) v (s.putByte (s.wp - 1) v)
    else .ok (s.putByte (s.wp - 1) v)
  else .error (.halt .bufAddress)

/-- The source address of a back-reference step, `d + OFF` with d = `WP` - 1, computed without wrap (spec/43 R115,
spec/00 R7). -/
def State.refAddr (s : State) : Nat := (s.wp - 1).toNat + s.off.toNat

/-- `backrefStep(OFF)`, its checks in the order 0x12, 0x14, 0x13 (spec/43 R115). -/
def backrefStep (s : State) : Except Stop State :=
  if s.wp = 0 then .error (.raise .writeUnderflow s)
  else if s.off = 0 then .error (.raise .backrefZero s)
  else if s.wtop.toNat ≤ s.refAddr then .error (.raise .backrefRange s)
  else
    match bufLoad s s.refAddr with
    | .error e => .error e
    | .ok v => writeByte v s

/-- One move of a run is done: `CNT <- CNT - 1` (spec/42 R95, R107). -/
def countDown : Except Stop State → Except Stop State
  | .ok s => .ok (s.setCnt (s.cnt - 1))
  | .error e => .error e

end Sys2Proof.Machine
end

