-- ==== Sys2Proof/Machine/Literal.lean ====
section
/-!
DEFINITION. The meaning of LITB, one literal byte move (spec/43 R113). Its first half, `readByte()`, is the fetch of the
literal byte (Machine/Fetch.lean), which raises 0x11; what follows is `writeByte(b)`, which raises 0x12 or 0x21.
-/

namespace Sys2Proof.Machine

/-- LITB: the byte is written and one move of the run is done (spec/43 R113, spec/42 R95, R107). -/
def execLitb (b : Byte) (s : State) : Host.Outcome State Fault Refusal := settle (countDown (writeByte b s))

end Sys2Proof.Machine
end

