-- ==== Sys2Proof/Machine/Modestore.lean ====
section
/-!
DEFINITION. The meanings of the modestore codes OFF.S, OFF.M, OFF.L, NL.S, NL.M, NL.L (spec/41 R88 to R93,
spec/42 R105 to R107).
-/

namespace Sys2Proof.Machine

/-- An offset code of tier `t` with value field `v`: `OFF` is its value over row `OFFSET_TABLE[PMODE][KIND]`
(spec/41 R92, spec/42 R105). The offset itself is not checked here. -/
def chooseOffset (t : Tier) (v : Word) (s : State) : Host.Outcome State Fault Refusal :=
  match s.offRow with
  | none => .fault .offsetTableIndex
  | some row => .next (s.setOffset (tierValue row t v))

/-- A literal-run code of tier `t` with value field `v`: `NLIT` is its value over row `LITLEN_TABLE[KIND]`, and the copy
begins (spec/41 R93, spec/42 R106, R107). -/
def chooseRun (t : Tier) (v : Word) (s : State) : Host.Outcome State Fault Refusal :=
  .next (s.setRun (tierValue s.nlRow t v))

/-- OFF.S (spec/41 R88). -/
def execOffS (v : Word) (s : State) : Host.Outcome State Fault Refusal := chooseOffset .small v s

/-- OFF.M (spec/41 R89). -/
def execOffM (v : Word) (s : State) : Host.Outcome State Fault Refusal := chooseOffset .medium v s

/-- OFF.L (spec/41 R90). -/
def execOffL (v : Word) (s : State) : Host.Outcome State Fault Refusal := chooseOffset .large v s

/-- NL.S (spec/41 R88). -/
def execNlS (v : Word) (s : State) : Host.Outcome State Fault Refusal := chooseRun .small v s

/-- NL.M (spec/41 R89). -/
def execNlM (v : Word) (s : State) : Host.Outcome State Fault Refusal := chooseRun .medium v s

/-- NL.L (spec/41 R90). -/
def execNlL (v : Word) (s : State) : Host.Outcome State Fault Refusal := chooseRun .large v s

end Sys2Proof.Machine
end

