-- ==== Sys2Proof/Machine/Start.lean ====
section
/-!
DEFINITION. The meaning of START (spec/44 R121, spec/42 R94).
-/

namespace Sys2Proof.Machine

/-- The write of `VERIFY_EN` and `IRQ_EN`, the former hardwired 0 when `HAS_VERIFY` is false (spec/10 R28). -/
def State.setCtrl (s : State) (verifyEn irqEn : Bool) : State :=
  { s with verifyEn := verifyEn && s.params.hasVerify, irqEn := irqEn }

/-- What START does before its checks: the fault registers are cleared and `VERIFY` is latched (spec/42 R94). -/
def State.armed (s : State) : State :=
  { s with faultCause := 0, mmPos := 0, mmData := 0, verify := s.verifyEnabled }

/-- What a START finds, for the model's own record (log entry 7). -/
def State.snapshot (s : State) : DecodeStart :=
  { rp := s.rp, sr := s.sr, len := s.len, kind := s.kind, off := s.off, nlit := s.nlit, buf := s.buf }

/-- START's checks passed: `WTOP` and `CNT` are latched and the prefix run begins (spec/42 R94). -/
def State.launched (s : State) : State :=
  { s with wtop := s.wp, cnt := s.prefixLen, phase := .prefixRun, tokenField := .type, begun := s.snapshot }

/-- Whether a position lies beyond the prepared buffer (spec/60 R139). -/
def State.positionBad (s : State) : Bool := s.bufLen < s.rp || s.bufLen < s.wp

/-- The checks of START, 0x31 before 0x32 (spec/42 R94), and after them the two host duties whose breach the spec tells a
model to refuse (spec/44 R129, spec/93 U7, U8; log entry 9). -/
def beginDecode (s : State) : Host.Outcome State Fault Refusal :=
  if 8 < s.pmode.toNat then .next (s.faultEntry .badPmode)
  else if s.positionBad then .next (s.faultEntry .badPosition)
  else if s.params.maxBuf < s.bufLen then .refused .bufLenOverMax
  else if s.expLen < s.wp && s.verifying then .refused .expShort
  else .next s.launched

/-- START: ignored entirely while BUSY, else the control bits are written and the core begins (spec/44 R121). -/
def execStart (verifyEn irqEn : Bool) (s : State) : Host.Outcome State Fault Refusal :=
  if s.busy then .next s else beginDecode (s.setCtrl verifyEn irqEn).armed

end Sys2Proof.Machine
end

