-- ==== Sys2Proof/Machine/Token.lean ====
section
/-!
DEFINITION. The meanings of the compression-type codes CT0 to CT5 (spec/42 R98 to R104). Moving the fetch pointer past the
code, and the fault 0x11 when the stream ends inside it, belong to the fetch (Machine/Fetch.lean).
-/

namespace Sys2Proof.Machine

/-- Compression type `i` with extra bits `x`: `KIND` and `LEN` from the table (spec/42 R97, R104). -/
def chooseType (i : Nat) (x : Word) (s : State) : Host.Outcome State Fault Refusal :=
  .next (s.setLength (refLength i x) (ctypeRow i).kind)

/-- CT0 (spec/42 R98). -/
def execCt0 (s : State) : Host.Outcome State Fault Refusal := chooseType 0 0 s

/-- CT1 (spec/42 R99). -/
def execCt1 (s : State) : Host.Outcome State Fault Refusal := chooseType 1 0 s

/-- CT2 (spec/42 R100). -/
def execCt2 (s : State) : Host.Outcome State Fault Refusal := chooseType 2 0 s

/-- CT3 (spec/42 R101). -/
def execCt3 (s : State) : Host.Outcome State Fault Refusal := chooseType 3 0 s

/-- CT4 with its 3 extra bits (spec/42 R102). -/
def execCt4 (x : BitVec 3) (s : State) : Host.Outcome State Fault Refusal := chooseType 4 (x.setWidth 32) s

/-- CT5 with its 8 extra bits (spec/42 R103). -/
def execCt5 (x : BitVec 8) (s : State) : Host.Outcome State Fault Refusal := chooseType 5 (x.setWidth 32) s

end Sys2Proof.Machine
end

