-- ==== Sys2Proof/Machine/Dispatch.lean ====
section
/-!
DEFINITION. The meaning of every instruction, one arm per row of spec/opcode_table.json.
-/

namespace Sys2Proof.Machine

def exec (i : Instr) (s : State) : Host.Outcome State Fault Refusal :=
  match i with
  | .ct0 => Sys2Proof.Machine.execCt0 s
  | .ct1 => Sys2Proof.Machine.execCt1 s
  | .ct2 => Sys2Proof.Machine.execCt2 s
  | .ct3 => Sys2Proof.Machine.execCt3 s
  | .ct4 x => Sys2Proof.Machine.execCt4 x s
  | .ct5 x => Sys2Proof.Machine.execCt5 x s
  | .offS v => Sys2Proof.Machine.execOffS v s
  | .offM v => Sys2Proof.Machine.execOffM v s
  | .offL v => Sys2Proof.Machine.execOffL v s
  | .nlS v => Sys2Proof.Machine.execNlS v s
  | .nlM v => Sys2Proof.Machine.execNlM v s
  | .nlL v => Sys2Proof.Machine.execNlL v s
  | .litb b => Sys2Proof.Machine.execLitb b s
  | .start v q => Sys2Proof.Machine.execStart v q s

end Sys2Proof.Machine
end

