-- ==== Sys2Proof/Machine/Fetch.lean ====
section
/-!
DEFINITION. Fetching an instruction: the decoder of Decode.lean run on the machine's own bitstream cursor, and the place
where a given instruction would be fetched from.
-/

namespace Sys2Proof.Machine

/-- A literal byte: `readByte()` (spec/30 R69, spec/43 R113). -/
def fetchLiteral (s : State) : Except Stop (Instr × State) :=
  match readByte s with
  | .error e => .error e
  | .ok (b, s') => .ok (decodeLiteral b, s')

/-- The token field the decode is at, with the row in use (spec/41 R92, R93, spec/42 R108); there is no offset row for a pack
mode above 8. -/
def State.nextField (s : State) : Option Field :=
  match s.tokenField with
  | .type => some .type
  | .offset => s.offRow.map Field.offset
  | .run => some (.run s.nlRow)

/-- What the fetch of field `f` that stops has done beside moving the cursor: in a compression type `KIND` is written once the
index is known, before the first bit of `X` is read (spec/42 R97, R104, R108). `s` is the state at the start of the fetch. -/
def Stop.withKind (f : Field) (s : State) (e : Stop) : Stop :=
  match f, e, countZeros readBit maxZeros 0 s with
  | .type, .raise c t, .ok (i, _) => .raise c (t.setKind (ctypeRow i).kind)
  | _, _, _ => e

/-- A token field, read bit by bit with `readBit()`; the bits read before a fault stay consumed (spec/42 R97, R104 to R106,
spec/40 R79). -/
def fetchField (s : State) : Except Stop (Instr × State) :=
  match s.nextField with
  | none => .error (.halt .offsetTableIndex)
  | some f =>
    match decodeField readBit f s with
    | .error e => .error (e.withKind f s)
    | .ok r => .ok r

/-- What the core decodes in this state, if it decodes anything (spec/42 R110): a literal byte while a literal run has moves
left, a field in `TOKEN`. -/
def fetch (s : State) : Option (Except Stop (Instr × State)) :=
  match s.phase with
  | .idle => none
  | .prefixRun => if s.cnt = 0 then none else some (fetchLiteral s)
  | .token => some (fetchField s)
  | .copy => none
  | .literal => if s.cnt = 0 then none else some (fetchLiteral s)
  | .done => none
  | .fault => none

/-- `bytes` placed in `BUF` so that the first is at the highest address, the order of consumption (spec/20 R49). -/
def storeStream : List Byte → Memory → Memory
  | [], m => m
  | b :: bytes, m => storeStream bytes (m.store bytes.length b)

/-- The state about to fetch the first field of a token from the stream `bytes` (log entry 8). -/
def State.withStream (s : State) (bytes : List Byte) : State :=
  { s with
    buf := storeStream bytes s.buf
    bufLen := BitVec.ofNat 32 bytes.length
    rp := BitVec.ofNat 32 bytes.length
    sr := sentinel
    phase := .token
    tokenField := .type
    host := [] }

/-- The state in which the host is about to write `w` to `CTRL` (log entry 8). -/
def State.withCtrlWrite (s : State) (w : Word) : State := { s with host := [.regWrite 0 32 w] }

end Sys2Proof.Machine
end

