-- ==== Sys2Proof/Machine/Phases.lean ====
section
/-!
DEFINITION. The rows of the phase table (spec/42 R110) that decode nothing: the boundary test, the back-reference byte step
and the end of a copy.
-/

namespace Sys2Proof.Machine

/-- The token boundary test: DONE when `WP` = 0, else the next token (spec/42 R96). -/
def boundaryTest (s : State) : State := if s.wp = 0 then s.setPhase .done else s.setPhase .token

/-- Phase `COPY`: one back-reference step while `CNT` > 0, then `CNT <- NLIT` and phase `LITERAL` (spec/42 R107). -/
def copyStep (s : State) : Host.Outcome State Fault Refusal :=
  if s.cnt = 0 then .next ((s.setCnt s.nlit).setPhase .literal) else settle (countDown (backrefStep s))

/-- What the core does in a step that decodes no instruction: `PREFIX` and `LITERAL` are at the end of their run, `COPY`
copies, and IDLE, DONE and FAULT do nothing until START (spec/60 R148). `TOKEN` always decodes. -/
def phaseStep (s : State) : Host.Outcome State Fault Refusal :=
  match s.phase with
  | .idle => .next s
  | .prefixRun => .next (boundaryTest s)
  | .token => .next s
  | .copy => copyStep s
  | .literal => .next (boundaryTest s)
  | .done => .next s
  | .fault => .next s

end Sys2Proof.Machine
end

