-- ==== Sys2Proof/Machine/CoreStep.lean ====
section
/-!
DEFINITION. One step of the core alone. The grain is one row of the phase table (spec/42 R110), a token in three steps, one for
each of its codes; the order of primitives and the state at a fault are those of the sequential program of R108 (log
entry 4).
-/

namespace Sys2Proof.Machine

/-- One step of the core alone. -/
def coreStep (s : State) : Host.Outcome State Fault Refusal :=
  match fetch s with
  | none => phaseStep s
  | some (.error e) => e.outcome
  | some (.ok (i, s')) => exec i s'

end Sys2Proof.Machine
end

