-- ==== Sys2Proof/Machine/Boundary.lean ====
section
/-!
DEFINITION. The boundaries between two primitives of a decode (spec/00 R10), which a host read made while BUSY may land on
(spec/44 R119, spec/93 U3). The decode is run through again from what START found; between two steps of the core lie the
single `readBit()` calls of a token's code, and the `readByte()` of a literal move.
-/

namespace Sys2Proof.Machine

/-- The state in which START left the core, as long as the decode is BUSY: the host's writes are ignored meanwhile (spec/44
R120) and `BUF` is the core's, so everything that is not in the record still stands. -/
def State.decodeStart (s : State) : State :=
  { s with
    rp := s.begun.rp
    wp := s.wtop
    sr := s.begun.sr
    cnt := s.prefixLen
    len := s.begun.len
    kind := s.begun.kind
    off := s.begun.off
    nlit := s.begun.nlit
    phase := .prefixRun
    tokenField := .type
    faultCause := 0
    mmPos := 0
    mmData := 0
    buf := s.begun.buf }

/-- Up to `n` steps of the core, fewer if the decode ends. -/
def advance : Nat → State → State
  | 0, s => s
  | n + 1, s =>
    if s.busy then
      match coreStep s with
      | .next t => advance n t
      | .fault _ => s
      | .refused _ => s
    else s

/-- Why a cursor that may read only so many bits gives no bit: it has read them all, or the stream has none. -/
inductive Pause where
  | here (s : State)
  | stop (e : Stop)
deriving DecidableEq, Repr

/-- The bitstream cursor with a number of bits it may still read. -/
def pausedBit : BitSource Pause (State × Nat)
  | (s, 0) => .error (.here s)
  | (s, k + 1) =>
    match readBit s with
    | .error e => .error (.stop e)
    | .ok (b, s') => .ok (b, (s', k))

/-- The state at which a paused reading stands. A `readBit()` that fails has changed nothing (spec/40 R77). -/
def Pause.state (s : State) : Pause → State
  | .here t => t
  | .stop (.raise _ t) => t
  | .stop (.halt _) => s

/-- The state after the first `k` bits of field `f`, or after the field if it is shorter. -/
def afterBits (f : Field) (k : Nat) (s : State) : State :=
  match decodeField pausedBit f (s, k) with
  | .error p => p.state s
  | .ok (_, (t, _)) => t

/-- The state between the two primitives of a literal move (spec/43 R113), or before it if it reads nothing. -/
def afterRead (s : State) : State :=
  match readByte s with
  | .error _ => s
  | .ok (_, t) => t

/-- The state `k` primitives into the step of the core that comes next. -/
def within (k : Nat) (s : State) : State :=
  match s.phase with
  | .idle => s
  | .prefixRun => if k = 0 ∨ s.cnt = 0 then s else afterRead s
  | .token =>
    match s.nextField with
    | none => s
    | some f => afterBits f k s
  | .copy => s
  | .literal => if k = 0 ∨ s.cnt = 0 then s else afterRead s
  | .done => s
  | .fault => s

/-- A boundary between two primitives of the decode under way: `c.1` steps of the core after START and `c.2` primitives into
the next one, or where the decode or the step ends before that. -/
def State.boundary (s : State) (c : Nat × Nat) : State := within c.2 (advance c.1 s.decodeStart)

end Sys2Proof.Machine
end

