-- ==== Sys2Proof/Machine/HostBus.lean ====
section
/-!
DEFINITION. The host's moves other than START: register reads and writes, byte accesses to `BUF` and `EXP`, reset
(spec/44 R119, R120, R129, spec/70 R149).
-/

namespace Sys2Proof.Machine

/-- The value of a register as the host reads it while not BUSY, and of every register but three while BUSY (R27 to R39). -/
def State.regValue (s : State) : Reg → Word
  | .ctrl => s.ctrl
  | .status => s.phase.stateCode
  | .faultCause => s.faultCause.setWidth 32
  | .rpos => s.rp
  | .wpos => s.wp
  | .bufLen => s.bufLen
  | .prefixLen => s.prefixLen
  | .pmode => s.pmode.setWidth 32
  | .sreg => s.sr.setWidth 32
  | .mmPos => s.mmPos
  | .mmData => s.mmData.setWidth 32
  | .none => 0

/-- A host read made while BUSY of a register the core is changing returns the value the register holds at some boundary of the
decode; which boundary is a free value (spec/44 R119, spec/93 U3; log entry 7). -/
def State.freeRead (s : State) : Reg → Option Word
  | .rpos => some (s.boundary (Config.busyRead s.freeReads)).rp
  | .wpos => some (s.boundary (Config.busyRead s.freeReads)).wp
  | .sreg => some ((s.boundary (Config.busyRead s.freeReads)).sr.setWidth 32)
  | .ctrl => none
  | .status => none
  | .faultCause => none
  | .bufLen => none
  | .prefixLen => none
  | .pmode => none
  | .mmPos => none
  | .mmData => none
  | .none => none

/-- A register read: no side effect on the core (spec/20 R54, spec/44 R119). -/
def readReg (r : Reg) (s : State) : State :=
  match s.busy, s.freeRead r with
  | true, some v => { s with hostData := v, freeReads := s.freeReads + 1 }
  | _, _ => { s with hostData := s.regValue r }

/-- A register write while not BUSY: the writable fields and nothing else (R28 to R39, spec/44 R120). `CTRL` with bit 0 = 1 is
START and does not come here. -/
def writeReg (r : Reg) (v : Word) (s : State) : State :=
  match r with
  | .ctrl => s.setCtrl (v.getLsbD 1) (v.getLsbD 2)
  | .status => s
  | .faultCause => s
  | .rpos => { s with rp := v }
  | .wpos => { s with wp := v }
  | .bufLen => { s with bufLen := v }
  | .prefixLen => { s with prefixLen := v }
  | .pmode => { s with pmode := v.setWidth 8 }
  | .sreg => { s with sr := v.setWidth 8 }
  | .mmPos => s
  | .mmData => s
  | .none => s

/-- Reset: every register takes its reset value, a decode is abandoned, `BUF` and `EXP` stay (spec/70 R149). What is not the
core's stays too: the parameters and the host's side. -/
def resetCore (s : State) : State :=
  { State.reset with
    params := s.params
    buf := s.buf
    exp := s.exp
    expLen := s.expLen
    host := s.host
    hostData := s.hostData
    freeReads := s.freeReads }

/-- Whether `EXP` has a byte at `a` (spec/20 R45). -/
def State.expHas (s : State) (a : Word) : Bool := s.params.hasVerify && a < s.expLen

/-- A host access to `BUF` or `EXP` of a byte that exists, made while not BUSY (spec/44 R129). -/
def bufferAccess (s : State) (present : Bool) (absent : Fault) (s' : State) : Host.Outcome State Fault Refusal :=
  if s.busy then .refused .bufferWhileBusy else if present then .next s' else .fault absent

/-- One move of the host that is not START. -/
def hostAct (m : HostMove) (s : State) : Host.Outcome State Fault Refusal :=
  match m with
  | .wait => .next s
  | .regRead offset width =>
    if regAccessOk offset width then .next (readReg (regAt offset) s) else .refused .registerAccess
  | .regWrite offset width v =>
    if regAccessOk offset width then .next (if s.busy then s else writeReg (regAt offset) v s)
    else .refused .registerAccess
  | .bufRead a =>
    bufferAccess s (a < s.params.maxBuf) .bufAddress { s with hostData := (s.bufByte a.toNat).setWidth 32 }
  | .bufWrite a v => bufferAccess s (a < s.params.maxBuf) .bufAddress { s with buf := s.buf.store a.toNat v }
  | .expRead a => bufferAccess s (s.expHas a) .expAddress { s with hostData := (s.expByte a.toNat).setWidth 32 }
  | .expWrite a v => bufferAccess s (s.expHas a) .expAddress { s with exp := s.exp.store a.toNat v }
  | .expSupply n => bufferAccess s s.params.hasVerify .expAddress { s with expLen := n }
  | .reset => .next (resetCore s)

/-- The START command a host move holds, if it is one: an aligned 32-bit write of `CTRL` with bit 0 = 1 (spec/44 R121). -/
def startOf (m : HostMove) : Option Instr :=
  match m with
  | .wait => none
  | .regRead _ _ => none
  | .regWrite offset width v =>
    if regAccessOk offset width && regAt offset == .ctrl then decodeCtrl v else none
  | .bufRead _ => none
  | .bufWrite _ _ => none
  | .expRead _ => none
  | .expWrite _ _ => none
  | .expSupply _ => none
  | .reset => none

end Sys2Proof.Machine
end

