-- ==== Sys2Proof/Machine/Step.lean ====
section
/-!
DEFINITION. One step of the machine: of the core (Machine/CoreStep.lean), or a move of the host, which falls between two of
them.
-/

namespace Sys2Proof.Machine

/-- One move of the host: START is an instruction, the rest are bus accesses and reset. -/
def hostStep (m : HostMove) (s : State) : Host.Outcome State Fault Refusal :=
  match startOf m with
  | some i => exec i s
  | none => hostAct m s

/-- One step of the machine: the next move of the host, or, when the host waits or has nothing more to do, a step of the
core (log entry 5). -/
def step (s : State) : Host.Outcome State Fault Refusal :=
  match s.host with
  | [] => coreStep s
  | .wait :: rest => coreStep { s with host := rest }
  | m :: rest => hostStep m { s with host := rest }

/-- `s` with the instruction word `w` where the next step takes its instruction from (log entry 8): a 32-bit word is a host
write of `CTRL`, anything else is the stream at the start of a token. -/
def State.withFetchWord (s : State) (nbits w : Nat) : State :=
  if nbits = 32 then s.withCtrlWrite (BitVec.ofNat 32 w) else s.withStream (tableBytes nbits w)

end Sys2Proof.Machine
end

