-- ==== Sys2Proof/Machine/Container.lean ====
section
/-!
DEFINITION. The host's duties toward the core (spec/44 R122 to R130, spec/70 R151): detection, the container header, header
relocation, buffer growth, and the moves that program and start the core; and what the host reports at the end. They bind the
host, not the core: no step of the machine uses them.
-/

namespace Sys2Proof.Machine

/-- `HEADER_LEN` (spec/00 R6). -/
def headerLen : Nat := 18

/-- The container header (spec/44 R123). -/
structure Header where
  magic          : Word
  fullLength     : Word
  packedLength   : Word
  unpackedPrefix : Word
  packMode       : Byte
  shiftSeed      : Byte
deriving DecidableEq, Repr

/-- The results of the host that are no output (spec/60 R131, R140, spec/44 R128). -/
inductive HostError where
  | notRecognized
  | malformedStream
  | integrityMismatch (position : Word) (expected actual : Byte)
deriving DecidableEq, Repr

/-- Byte `k` of a file. -/
def fileByte (f : List Byte) (k : Nat) : Byte := f.getD k 0

/-- The big-endian 32-bit field at offset `k` (spec/44 R124). -/
def be32 (f : List Byte) (k : Nat) : Word :=
  fileByte f k ++ fileByte f (k + 1) ++ fileByte f (k + 2) ++ fileByte f (k + 3)

/-- The header fields, all read before relocation (spec/44 R123, R124). -/
def parseHeader (f : List Byte) : Header where
  magic := be32 f 0
  fullLength := be32 f 4
  packedLength := be32 f 8
  unpackedPrefix := be32 f 12
  packMode := fileByte f 16
  shiftSeed := fileByte f 17

/-- Whether the file is of this format (spec/44 R122). -/
def recognised (p : Params) (f : List Byte) : Bool := headerLen ≤ f.length && (parseHeader f).magic == p.magic

/-- Detection: `full_length`, or "not this format" (spec/44 R122). -/
def detect (p : Params) (f : List Byte) : Option Word :=
  if recognised p f then some (parseHeader f).fullLength else none

/-- The host's own refusals of a recognised file (spec/44 R130). -/
def hostRefuses (p : Params) (f : List Byte) : Bool :=
  let h := parseHeader f
  f.length < h.packedLength.toNat || h.fullLength.toNat < f.length || p.maxBuf < h.fullLength

/-- Header relocation: the first `min(packed_length, 18)` bytes are copied so that they end at `packed_length`, as if every
source byte were read first (spec/44 R125). -/
def relocate (packed : Nat) (f : List Byte) : List Byte :=
  f.take (packed - min packed headerLen) ++ f.take (min packed headerLen) ++ f.drop packed

/-- Buffer growth with zero bytes up to `full_length` (spec/44 R126). -/
def grow (full : Nat) (b : List Byte) : List Byte := b ++ List.replicate (full - b.length) 0

/-- What the host prepares from a file: its header and the content of `BUF`; or why it does not start the core
(spec/44 R122 to R126, R130). -/
def prepare (p : Params) (f : List Byte) : Except HostError (Header × List Byte) :=
  if !recognised p f then .error .notRecognized
  else if hostRefuses p f then .error .malformedStream
  else
    let h := parseHeader f
    .ok (h, grow h.fullLength.toNat (relocate h.packedLength.toNat f))

/-- The host's writes of `bytes` into `BUF`, from address `a` up. -/
def bufMoves : Nat → List Byte → List HostMove
  | _, [] => []
  | a, b :: bytes => .bufWrite (BitVec.ofNat 32 a) b :: bufMoves (a + 1) bytes

/-- The host's writes of `bytes` into `EXP`, from address `a` up. -/
def expMoves : Nat → List Byte → List HostMove
  | _, [] => []
  | a, b :: bytes => .expWrite (BitVec.ofNat 32 a) b :: expMoves (a + 1) bytes

/-- The register writes of the programming convention (spec/44 R127). -/
def programMoves (h : Header) : List HostMove :=
  [.regWrite 0x0C 32 h.packedLength, .regWrite 0x10 32 h.fullLength, .regWrite 0x14 32 h.fullLength,
   .regWrite 0x18 32 h.unpackedPrefix, .regWrite 0x1C 32 (h.packMode.setWidth 32),
   .regWrite 0x20 32 (h.shiftSeed.setWidth 32)]

/-- The boot sequence after the checks: `BUF`, then `EXP` if there is an expected output, then the registers, then START
with `VERIFY_EN` = 1 if and only if there is one (spec/70 R151, spec/44 R127). -/
def bootMoves (h : Header) (b : List Byte) (expected : Option (List Byte)) (irqEn : Bool) : List HostMove :=
  bufMoves 0 b ++
    (match expected with
     | none => []
     | some e => .expSupply (BitVec.ofNat 32 e.length) :: expMoves 0 e) ++
    programMoves h ++ [.regWrite 0x00 32 (startWord expected.isSome irqEn)]

/-- What the host reports once it observes DONE or FAULT (spec/44 R128): the first `full` bytes of `BUF`, or the error of the
cause's class. -/
def hostReport (full : Nat) (s : State) : Option (Except HostError (List Byte)) :=
  match s.phase with
  | .done => some (.ok ((List.range full).map s.bufByte))
  | .fault =>
    some (.error (if s.faultCause = Cause.integrityMismatch.code then
      .integrityMismatch s.mmPos (s.mmData.setWidth 8) (s.mmData.extractLsb' 8 8) else .malformedStream))
  | .idle => none
  | .prefixRun => none
  | .token => none
  | .copy => none
  | .literal => none

end Sys2Proof.Machine
end

