-- ==== Sys2Proof/Safety.lean ====
section
/-!
DEFINITION. The terms the claims use: runs of the machine, the invariant every step keeps, reading several bits in a row, and
what a copy of R116 repeats.
-/

namespace Sys2Proof.Machine

/-- `n` steps, ending early at a fault or a refusal of the model. -/
def run : Nat → State → Host.Outcome State Fault Refusal
  | 0, s => .next s
  | n + 1, s =>
    match step s with
    | .next t => run n t
    | .fault f => .fault f
    | .refused r => .refused r

/-- The decode has ended: DONE or FAULT. -/
def State.ended (s : State) : Prop := s.phase = .done ∨ s.phase = .fault

/-- A literal run is under way: `PREFIX` or `LITERAL` (spec/10 R25). -/
def State.inLiteralRun (s : State) : Prop := s.phase = .prefixRun ∨ s.phase = .literal

/-- What holds of every state the machine reaches, and what every step keeps. -/
structure Inv (s : State) : Prop where
  /-- `BUF` is in canonical form. -/
  bufForm : s.buf.wf
  /-- `EXP` is in canonical form. -/
  expForm : s.exp.wf
  /-- While BUSY the positions lie in the prepared buffer (spec/20 R44, spec/42 R94). -/
  positions : s.busy = true →
    s.rp.toNat ≤ s.bufLen.toNat ∧ s.wp.toNat ≤ s.wtop.toNat ∧ s.wtop.toNat ≤ s.bufLen.toNat ∧
      s.bufLen.toNat ≤ s.params.maxBuf.toNat
  /-- While BUSY the pack mode has a table (spec/60 R138). -/
  packMode : s.busy = true → s.pmode.toNat ≤ 8
  /-- While a verified decode is BUSY, `EXP` covers the output (spec/20 R45). -/
  expected : s.busy = true → s.verifying = true → s.wtop.toNat ≤ s.expLen.toNat
  /-- `FAULT_CAUSE` is 0 exactly when `PHASE` is not `FAULT`, else one of the seven codes (spec/10 R30). -/
  cause : (s.phase ≠ .fault → s.faultCause = 0) ∧ (s.phase = .fault → ∃ c : Cause, s.faultCause = c.code)
  /-- `MM_POS` and `MM_DATA` are 0 but after an IntegrityMismatch (spec/10 R37, R38). -/
  mismatch : s.faultCause ≠ Cause.integrityMismatch.code → s.mmPos = 0 ∧ s.mmData = 0
  /-- Without the comparator `VERIFY` and `VERIFY_EN` are 0 (spec/10 R26, R28). -/
  hardwired : s.params.hasVerify = false → s.verify = false ∧ s.verifyEn = false
  /-- Once decoded, `LEN` is in 2..269 while it is in use (spec/10 R21). -/
  length : (s.phase = .token ∧ s.tokenField ≠ .type) ∨ s.phase = .copy → 2 ≤ s.len.toNat ∧ s.len.toNat ≤ 269
  /-- A copy has at most `LEN` moves left (spec/42 R107). -/
  copyLeft : s.phase = .copy → s.cnt.toNat ≤ s.len.toNat
  /-- While BUSY the state lies on the decode that START began: it is one of the boundaries a host read may land on (spec/44
  R119). -/
  underWay : s.busy = true → ∃ n, s = advance n s.decodeStart

/-- `n` calls of `readBit()` in a row and the bits they return, first bit first. -/
def readBitList : Nat → State → Except Stop (List Bool × State)
  | 0, s => .ok ([], s)
  | n + 1, s =>
    match readBit s with
    | .error e => .error e
    | .ok (b, s') =>
      match readBitList n s' with
      | .error e => .error e
      | .ok (bs, s'') => .ok (b :: bs, s'')

/-- The unsigned value of a bit string, first bit most significant (spec/20 R51). -/
def bitsValue (bits : List Bool) : Nat := bits.foldl (fun v b => 2 * v + b.toNat) 0

/-- The rows in use in a state with a legal pack mode (spec/41 R92, R93). -/
def State.rows (s : State) : Option Rows := s.offRow.map fun row => ⟨row, s.nlRow⟩

/-- The field a token's decoding is at, with its row. -/
def TokenField.field (f : TokenField) (r : Rows) : Field :=
  match f with
  | .type => .type
  | .offset => .offset r.off
  | .run => .run r.nl

/-- The tier and value field of a modestore code; every other instruction has none. -/
def offsetCode : Tier → Word → Instr
  | .small, v => .offS v
  | .medium, v => .offM v
  | .large, v => .offL v

/-- As `offsetCode`, for the literal-run length. -/
def runCode : Tier → Word → Instr
  | .small, v => .nlS v
  | .medium, v => .nlM v
  | .large, v => .nlL v

end Sys2Proof.Machine
end

