-- ==== Sys2Proof/Certificates/Slice0/Obligations.lean ====
section
/-!
DEFINITION. The statements about the model, from the numbered rules of spec/. A result is stated as the whole next state
(`{ s with … }`), which is the frame too: every field not named keeps its value; where a byte is stored, `BUF` is stated byte
by byte through `bufByte`.
-/

open Sys2Proof Sys2Proof.Machine

/-! ## Encoding -/

/-- Decoding the encoding of a well-formed instruction gives it back, whatever follows it (spec/30 R66 to R69). -/
def Obligations.DecodeOfEncodeIsIdentity : Prop :=
  ∀ (r : Rows) (i : Instr) (rest : List Bool), i.wf r = true →
    decode (i.context r) (encode r i ++ rest) = .ok (i, rest)

/-- Whatever the decoder reads from a token's bits or a literal byte is well formed, belongs to that place, and the bits read
are its encoding: one encoding each (spec/30 R72). -/
def Obligations.DecodedBitsAreTheEncoding : Prop :=
  ∀ (r : Rows) (c : Context) (bits rest : List Bool) (i : Instr),
    c ∈ [Context.field .type, .field (.offset r.off), .field (.run r.nl), .literal] →
    decode c bits = .ok (i, rest) →
    i.wf r = true ∧ i.context r = c ∧ bits = encode r i ++ rest

/-- No bit pattern is illegal: 33 bits always hold a complete field, whatever they are (spec/30 R72). -/
def Obligations.NoBitPatternIsRejected : Prop :=
  ∀ (f : Field) (bits : List Bool), 33 ≤ bits.length →
    ∃ i rest, decode (.field f) bits = .ok (i, rest) ∧ bits.length ≤ rest.length + 33

/-- A few codes of spec/95 (P1, P2, T5, T8, M5, H10), written out bit by bit. -/
def Obligations.WrittenCodesDecode : Prop :=
  let row : Row := { small := 2, medium := 4, large := 8, fits := by decide }
  decode (.field .type) [false, false, false, true, true] = .ok (.ct3, [true]) ∧
  decode (.field .type) [false, false, false, false, true, true, true, true] = .ok (.ct4 7, []) ∧
  decode (.field .type) ([false, false, false, false, false, true] ++ List.replicate 7 false) = .ok (.ct5 128, []) ∧
  decode (.field (.offset row)) [true, false, true] = .ok (.offS 1, []) ∧
  decode (.field (.offset row)) [false, true, false, false, false, false] = .ok (.offM 0, []) ∧
  decode (.field (.run row)) ([false, false] ++ List.replicate 8 false) = .ok (.nlL 0, []) ∧
  decode .literal [false, true, false, false, false, false, false, true] = .ok (.litb 0x41, []) ∧
  decodeCtrl 7 = some (.start true true)

/-! ## The bitstream cursor -/

/-- `readByte()` (spec/40 R76). -/
def Obligations.ReadByteTakesTheByteBelow : Prop :=
  ∀ s : State,
    (s.rp = 0 → readByte s = .error (.raise .readUnderflow s)) ∧
    (s.rp ≠ 0 → s.rp.toNat ≤ s.bufLen.toNat →
      readByte s = .ok (s.bufByte (s.rp.toNat - 1), { s with rp := s.rp - 1 }))

/-- `readBit()`, reload case (spec/40 R77). -/
def Obligations.ReadBitReloads : Prop :=
  ∀ s : State, s.sr = 0x80 →
    (s.rp = 0 → readBit s = .error (.raise .readUnderflow s)) ∧
    (s.rp ≠ 0 → s.rp.toNat ≤ s.bufLen.toNat →
      let b := s.bufByte (s.rp.toNat - 1)
      readBit s = .ok (b.getLsbD 7, { s with rp := s.rp - 1, sr := b.extractLsb' 0 7 ++ (1 : BitVec 1) }))

/-- `readBit()`, shift case (spec/40 R78). -/
def Obligations.ReadBitShifts : Prop :=
  ∀ s : State, s.sr ≠ 0x80 →
    readBit s = .ok (s.sr.getLsbD 7, { s with sr := s.sr.extractLsb' 0 7 ++ (0 : BitVec 1) })

/-- `readBits(n)` assembles its bits most significant first and is below 2^n; when a reload fails, the fault is the one that
reading the bits one by one raises, at the same state (spec/40 R79). -/
def Obligations.ReadBitsIsMostSignificantFirst : Prop :=
  ∀ (n : Nat) (s : State), n ≤ 32 →
    (∀ bits s', readBitList n s = .ok (bits, s') →
      ∃ v : Word, readBits readBit n s = .ok (v, s') ∧ v.toNat = bitsValue bits ∧ v.toNat < 2 ^ n) ∧
    (∀ e, readBitList n s = .error e → readBits readBit n s = .error e)

/-- Contiguity: from the sentinel, 8 n bits are the bits of the next n stream bytes, in descending address order, bit 7 first,
and the sentinel is back (spec/40 R80). -/
def Obligations.BitsAreContiguousAcrossBytes : Prop :=
  ∀ (n : Nat) (s : State), s.sr = 0x80 → n ≤ s.rp.toNat → s.rp.toNat ≤ s.bufLen.toNat →
    readBitList (8 * n) s =
      .ok ((List.range n).flatMap fun j => byteBits (s.bufByte (s.rp.toNat - 1 - j)),
        { s with rp := s.rp - BitVec.ofNat 32 n })

/-- The seed law: a seed whose lowest set bit is bit t gives its bits 7 to t + 1 and then the sentinel, without consuming a
byte; the seed 0 gives zeros for ever (spec/40 R81). -/
def Obligations.SeedBitsComeFirst : Prop :=
  ∀ s : State,
    (∀ t : Nat, t ≤ 7 → s.sr.getLsbD t = true → (∀ j < t, s.sr.getLsbD j = false) →
      readBitList (7 - t) s =
        .ok ((List.range (7 - t)).map fun j => s.sr.getLsbD (7 - j), { s with sr := 0x80 })) ∧
    (s.sr = 0 → ∀ n, readBitList n s = .ok (List.replicate n false, s))

/-- Cursor invariants: a nonzero shift register stays nonzero, and `RP` falls by one exactly at a reload (spec/40 R82). -/
def Obligations.ShiftRegisterStaysNonzero : Prop :=
  ∀ (s t : State) (b : Bool), readBit s = .ok (b, t) →
    (s.sr ≠ 0 → t.sr ≠ 0) ∧ t.rp.toNat = s.rp.toNat - (if s.sr = 0x80 then 1 else 0)

/-! ## Fetching and running an instruction -/

/-- Where the cursor's next bits are the encoding of a well-formed instruction of the field being decoded, that instruction is
what the core fetches, and the cursor has moved past exactly those bits. -/
def Obligations.FetchDecodesTheStreamBits : Prop :=
  ∀ (s s' : State) (r : Rows) (i : Instr), s.phase = .token → s.rows = some r → i.wf r = true →
    i.context r = .field (s.tokenField.field r) →
    readBitList (encode r i).length s = .ok (encode r i, s') →
    fetch s = some (.ok (i, s'))

/-- What the core fetches in `TOKEN` is well formed for the rows in use and its encoding is what the cursor delivered. -/
def Obligations.FetchedCodeIsInTheStream : Prop :=
  ∀ (s s' : State) (r : Rows) (i : Instr), s.phase = .token → s.rows = some r →
    fetch s = some (.ok (i, s')) →
    i.wf r = true ∧ i.context r = .field (s.tokenField.field r) ∧
      readBitList (encode r i).length s = .ok (encode r i, s')

/-- A fetch that fails has run out of stream: `RP` is 0, `SR` is as the failing read found it, and nothing but the cursor has
changed, except that `KIND` is already written when the stream ends after the five bits of a compression-type code, inside
its extra bits; with legal positions and pack mode it fails in no other way. The step that fetches so takes fault 0x11 there
(spec/60 R133, R142, spec/42 R97, R104, R108, R110). -/
def Obligations.FetchFailsOnlyAtStreamEnd : Prop :=
  ∀ (s : State) (e : Stop), fetch s = some (.error e) → s.rp.toNat ≤ s.bufLen.toNat → s.pmode.toNat ≤ 8 →
    ∃ (sr : Byte) (k : BitVec 2), e = .raise .readUnderflow { s with rp := 0, sr := sr, kind := k } ∧
      (s.phase = .token → sr = 0x80) ∧ (s.phase ≠ .token → sr = s.sr ∧ s.rp = 0) ∧
      (s.phase = .token → s.tokenField = .type → (∃ r, readBitList 5 s = .ok r) → k = 3) ∧
      (s.phase ≠ .token ∨ s.tokenField ≠ .type ∨ (∀ r, readBitList 5 s ≠ .ok r) → k = s.kind) ∧
      (s.host = [] → step s = .next { s with rp := 0, sr := sr, kind := k, phase := .fault, faultCause := 0x11 })

/-- A step runs the decoded instruction: the one at the cursor when the host has no move or waits, the START that the host's
next move holds. Where the fetch raises a cause, the step takes that fault at the state the fetch left. -/
def Obligations.StepRunsTheDecodedInstruction : Prop :=
  ∀ (s s' : State) (i : Instr) (c : Cause) (m : HostMove) (rest : List HostMove),
    (s.host = [] → fetch s = some (.ok (i, s')) → step s = exec i s') ∧
    (s.host = .wait :: rest → fetch { s with host := rest } = some (.ok (i, s')) → step s = exec i s') ∧
    (s.host = m :: rest → startOf m = some i → step s = exec i { s with host := rest }) ∧
    (s.host = [] → fetch s = some (.error (.raise c s')) →
      step s = .next { s' with phase := .fault, faultCause := c.code }) ∧
    (s.host = .wait :: rest → fetch { s with host := rest } = some (.error (.raise c s')) →
      step s = .next { s' with phase := .fault, faultCause := c.code })

/-- A host write of `CTRL` is START exactly when its bit 0 is 1; bits 1 and 2 are its operands (spec/44 R121, spec/10 R28). -/
def Obligations.CtrlWriteWithBitZeroIsStart : Prop :=
  ∀ v : Word, startOf (.regWrite 0 32 v) =
    if v.getLsbD 0 = true then some (.start (v.getLsbD 1) (v.getLsbD 2)) else none

/-! ## Compression types -/

/-- The compression-type codes set `LEN` and `KIND` and nothing else but the place in the token (spec/42 R98 to R103). -/
def Obligations.TypeCodesSetLengthAndKind : Prop :=
  ∀ (s : State) (x : BitVec 3) (y : BitVec 8),
    exec .ct0 s = .next { s with len := 2, kind := 0, tokenField := .offset } ∧
    exec .ct1 s = .next { s with len := 3, kind := 1, tokenField := .offset } ∧
    exec .ct2 s = .next { s with len := 4, kind := 2, tokenField := .offset } ∧
    exec .ct3 s = .next { s with len := 5, kind := 3, tokenField := .offset } ∧
    exec (.ct4 x) s = .next { s with len := BitVec.ofNat 32 (6 + x.toNat), kind := 3, tokenField := .offset } ∧
    exec (.ct5 y) s = .next { s with len := BitVec.ofNat 32 (14 + y.toNat), kind := 3, tokenField := .offset }

/-- The length ranges partition 2..269: each length there, and no other, is the result of a compression-type code, and of one
only (spec/30 R66, R72). -/
def Obligations.EachLengthHasOneTypeCode : Prop :=
  ∀ (s : State) (n : Word),
    (2 ≤ n.toNat ∧ n.toNat ≤ 269) ↔
      ∃! i : Instr, (∀ r, i.context r = .field .type) ∧ ∃ t, exec i s = .next t ∧ t.len = n

/-! ## Modestore codes -/

/-- The value of each tier lies in the tier's range, and the three ranges are disjoint and together are
[0, 2^S + 2^M + 2^L), inside [0, 2^32): each value there, and no other, has exactly one tier and value field (spec/41 R91). -/
def Obligations.TierRangesPartitionTheValues : Prop :=
  ∀ row : Row,
    (∀ v : Word, v.toNat < 2 ^ row.small → (tierValue row .small v).toNat < 2 ^ row.small) ∧
    (∀ v : Word, v.toNat < 2 ^ row.medium → 2 ^ row.small ≤ (tierValue row .medium v).toNat ∧
      (tierValue row .medium v).toNat < 2 ^ row.small + 2 ^ row.medium) ∧
    (∀ v : Word, v.toNat < 2 ^ row.large → 2 ^ row.small + 2 ^ row.medium ≤ (tierValue row .large v).toNat ∧
      (tierValue row .large v).toNat < 2 ^ row.small + 2 ^ row.medium + 2 ^ row.large) ∧
    2 ^ row.small + 2 ^ row.medium + 2 ^ row.large ≤ 2 ^ 32 ∧
    ∀ n : Nat, n < 2 ^ row.small + 2 ^ row.medium + 2 ^ row.large ↔
      ∃! c : Tier × Word, c.2.toNat < 2 ^ tierWidth row c.1 ∧ (tierValue row c.1 c.2).toNat = n

/-- An offset code whose value field fits its row sets `OFF` to v, v + 2^S or v + 2^S + 2^M over row
`OFFSET_TABLE[PMODE][KIND]`, and nothing else but the place in the token (spec/41 R88 to R92, spec/42 R105). -/
def Obligations.OffsetCodesSetOffset : Prop :=
  ∀ (s : State) (v : Word) (h : s.pmode.toNat < 9),
    let row := (s.params.offsetTable[s.pmode.toNat])[s.kind.toNat]'s.kind.isLt
    (v.toNat < 2 ^ row.small →
      exec (.offS v) s = .next { s with off := v, tokenField := .run }) ∧
    (v.toNat < 2 ^ row.medium → ∃ w : Word, w.toNat = v.toNat + 2 ^ row.small ∧
      exec (.offM v) s = .next { s with off := w, tokenField := .run }) ∧
    (v.toNat < 2 ^ row.large → ∃ w : Word, w.toNat = v.toNat + 2 ^ row.small + 2 ^ row.medium ∧
      exec (.offL v) s = .next { s with off := w, tokenField := .run })

/-- The MODEL's stop (log entry 10): with a pack mode above 8 there is no offset row and an offset code stops. START lets no
such decode begin. -/
def Obligations.OffsetCodesStopWithoutTable : Prop :=
  ∀ (s : State) (v : Word), 9 ≤ s.pmode.toNat →
    exec (.offS v) s = .fault .offsetTableIndex ∧ exec (.offM v) s = .fault .offsetTableIndex ∧
      exec (.offL v) s = .fault .offsetTableIndex

/-- A literal-run code whose value field fits its row sets `NLIT` to v, v + 2^S or v + 2^S + 2^M over row
`LITLEN_TABLE[KIND]`, and the copy of `LEN` bytes begins (spec/41 R88 to R91, R93, spec/42 R106, R107). -/
def Obligations.RunCodesSetRunAndBeginCopy : Prop :=
  ∀ (s : State) (v : Word),
    let row := s.params.litLenTable[s.kind.toNat]'s.kind.isLt
    (v.toNat < 2 ^ row.small →
      exec (.nlS v) s = .next { s with nlit := v, cnt := s.len, phase := .copy, tokenField := .type }) ∧
    (v.toNat < 2 ^ row.medium → ∃ w : Word, w.toNat = v.toNat + 2 ^ row.small ∧
      exec (.nlM v) s = .next { s with nlit := w, cnt := s.len, phase := .copy, tokenField := .type }) ∧
    (v.toNat < 2 ^ row.large → ∃ w : Word, w.toNat = v.toNat + 2 ^ row.small + 2 ^ row.medium ∧
      exec (.nlL v) s = .next { s with nlit := w, cnt := s.len, phase := .copy, tokenField := .type })

/-! ## Literal bytes -/

/-- LITB with verification off: the byte lands at `WP` - 1, `WP` and `CNT` fall by one, and every other byte and register is as
before (spec/43 R111, R113, spec/42 R95). -/
def Obligations.LiteralWritesOneByte : Prop :=
  ∀ (s : State) (b : Byte), s.wp ≠ 0 → s.wp.toNat ≤ s.bufLen.toNat → s.verifying = false →
    ∃ t, exec (.litb b) s = .next t ∧
      t = { s with wp := s.wp - 1, cnt := s.cnt - 1, buf := t.buf } ∧
      ∀ a, t.bufByte a = if a = s.wp.toNat - 1 then b else s.bufByte a

/-- LITB with verification on: an equal byte of `EXP` lets it complete as without, a different one takes fault 0x21 after the
write, with `MM_POS` and `MM_DATA` set and `CNT` kept (spec/43 R112, spec/60 R137). -/
def Obligations.LiteralIsVerified : Prop :=
  ∀ (s : State) (b : Byte), s.wp ≠ 0 → s.wp.toNat ≤ s.bufLen.toNat → s.verifying = true →
    s.wp.toNat ≤ s.expLen.toNat →
    ∃ t, exec (.litb b) s = .next t ∧
      (∀ a, t.bufByte a = if a = s.wp.toNat - 1 then b else s.bufByte a) ∧
      (s.expByte (s.wp.toNat - 1) = b → t = { s with wp := s.wp - 1, cnt := s.cnt - 1, buf := t.buf }) ∧
      (s.expByte (s.wp.toNat - 1) ≠ b →
        t = { s with
          wp := s.wp - 1
          buf := t.buf
          phase := .fault
          faultCause := 0x21
          mmPos := s.wp - 1
          mmData := b ++ s.expByte (s.wp.toNat - 1) })

/-- A literal move of the core alone, with verification off: the byte below `RP` is read and written below `WP`
(spec/43 R113). -/
def Obligations.LiteralMoveCopiesStreamByte : Prop :=
  ∀ s : State, s.host = [] → s.inLiteralRun → s.cnt ≠ 0 → s.rp ≠ 0 → s.rp.toNat ≤ s.bufLen.toNat →
    s.wp ≠ 0 → s.wp.toNat ≤ s.bufLen.toNat → s.verifying = false →
    ∃ t, step s = .next t ∧
      t = { s with rp := s.rp - 1, wp := s.wp - 1, cnt := s.cnt - 1, buf := t.buf } ∧
      ∀ a, t.bufByte a = if a = s.wp.toNat - 1 then s.bufByte (s.rp.toNat - 1) else s.bufByte a

/-- The faults of a literal move: 0x11 with nothing changed when `RP` is 0; else 0x12 with `RP` already decremented when `WP`
is 0 (spec/43 R113, spec/60 R133, R134). -/
def Obligations.LiteralMoveFaults : Prop :=
  ∀ s : State, s.host = [] → s.inLiteralRun → s.cnt ≠ 0 →
    (s.rp = 0 → step s = .next { s with phase := .fault, faultCause := 0x11 }) ∧
    (s.rp ≠ 0 → s.rp.toNat ≤ s.bufLen.toNat → s.wp = 0 →
      step s = .next { s with rp := s.rp - 1, phase := .fault, faultCause := 0x12 })

/-- LITB with no room left takes fault 0x12 (spec/60 R134). -/
def Obligations.LiteralWithoutRoomFaults : Prop :=
  ∀ (s : State) (b : Byte), s.wp = 0 → exec (.litb b) s = .next { s with phase := .fault, faultCause := 0x12 }

/-- The MODEL's stops (log entry 10): a write position above `BUFLEN`, or a verified one above the supplied `EXP`, stops the
model. No step of a decode that START let begin meets one. -/
def Obligations.LiteralStopsOutsideMemory : Prop :=
  ∀ (s : State) (b : Byte),
    (s.bufLen.toNat < s.wp.toNat → exec (.litb b) s = .fault .bufAddress) ∧
    (s.wp ≠ 0 → s.wp.toNat ≤ s.bufLen.toNat → s.verifying = true → s.expLen.toNat < s.wp.toNat →
      exec (.litb b) s = .fault .expAddress)

/-- The literal-run law: n moves that complete from `RP` = r ≤ `WP` = w set `BUF[w - j]` to what `BUF[r - j]` held, for
j = 1..n, and leave `RP` = r - n, `WP` = w - n (spec/43 R114); with verification off they complete whenever stream and output
have room. -/
def Obligations.LiteralRunLaw : Prop :=
  ∀ (n : Nat) (s : State), s.host = [] → s.inLiteralRun → s.cnt.toNat = n → s.rp.toNat ≤ s.wp.toNat →
    (n ≤ s.rp.toNat → s.wp.toNat ≤ s.bufLen.toNat → s.verifying = false →
      ∃ t, run n s = .next t ∧ t.phase = s.phase) ∧
    ∀ t, run n s = .next t → t.phase = s.phase →
      t = { s with rp := s.rp - s.cnt, wp := s.wp - s.cnt, cnt := 0, buf := t.buf } ∧ n ≤ s.rp.toNat ∧
      ∀ a, t.bufByte a =
        if s.wp.toNat - n ≤ a ∧ a < s.wp.toNat then s.bufByte (s.rp.toNat - (s.wp.toNat - a)) else s.bufByte a

/-! ## Back-references -/

/-- One step of a copy: its three faults in the order of their checks, each without effect; else the byte `OFF` above the
written one lands there (spec/43 R115). -/
def Obligations.BackrefStepRule : Prop :=
  ∀ s : State, s.host = [] → s.phase = .copy → s.cnt ≠ 0 →
    let d := s.wp.toNat - 1
    (s.wp = 0 → step s = .next { s with phase := .fault, faultCause := 0x12 }) ∧
    (s.wp ≠ 0 → s.off = 0 → step s = .next { s with phase := .fault, faultCause := 0x14 }) ∧
    (s.wp ≠ 0 → s.off ≠ 0 → s.wtop.toNat ≤ d + s.off.toNat →
      step s = .next { s with phase := .fault, faultCause := 0x13 }) ∧
    (s.wp ≠ 0 → s.off ≠ 0 → d + s.off.toNat < s.wtop.toNat → s.wtop.toNat ≤ s.bufLen.toNat → s.verifying = false →
      ∃ t, step s = .next t ∧ t = { s with wp := s.wp - 1, cnt := s.cnt - 1, buf := t.buf } ∧
        ∀ a, t.bufByte a = if a = d then s.bufByte (d + s.off.toNat) else s.bufByte a)

/-- A verified step of a copy: a byte that differs from `EXP` takes fault 0x21 after it was written (spec/43 R112,
spec/60 R137). -/
def Obligations.BackrefStepIsVerified : Prop :=
  ∀ s : State, s.host = [] → s.phase = .copy → s.cnt ≠ 0 → s.wp ≠ 0 → s.off ≠ 0 →
    s.wp.toNat - 1 + s.off.toNat < s.wtop.toNat → s.wtop.toNat ≤ s.bufLen.toNat → s.verifying = true →
    s.wp.toNat ≤ s.expLen.toNat →
    let v := s.bufByte (s.wp.toNat - 1 + s.off.toNat)
    let e := s.expByte (s.wp.toNat - 1)
    ∃ t, step s = .next t ∧
      (∀ a, t.bufByte a = if a = s.wp.toNat - 1 then v else s.bufByte a) ∧
      (e = v → t = { s with wp := s.wp - 1, cnt := s.cnt - 1, buf := t.buf }) ∧
      (e ≠ v → t = { s with
        wp := s.wp - 1
        buf := t.buf
        phase := .fault
        faultCause := 0x21
        mmPos := s.wp - 1
        mmData := v ++ e })

/-- The copy law: n steps that complete at offset o from `WP` = w repeat the o bytes at w downward with period o and leave
`WP` = w - n (spec/43 R116); with verification off they complete whenever the source is written output and there is room. -/
def Obligations.CopyRepeatsWithPeriodOffset : Prop :=
  ∀ (n : Nat) (s : State), s.host = [] → s.phase = .copy → s.cnt.toNat = n →
    (s.off ≠ 0 → n ≤ s.wp.toNat → s.wp.toNat + s.off.toNat ≤ s.wtop.toNat → s.wtop.toNat ≤ s.bufLen.toNat →
      s.verifying = false → ∃ t, run n s = .next t ∧ t.phase = .copy) ∧
    ∀ t, run n s = .next t → t.phase = .copy →
      t = { s with wp := s.wp - s.cnt, cnt := 0, buf := t.buf } ∧ n ≤ s.wp.toNat ∧
      (∀ j, 1 ≤ j → j ≤ n →
        t.bufByte (s.wp.toNat - j) =
          s.bufByte (s.wp.toNat - ((j - 1) % s.off.toNat + 1) + s.off.toNat)) ∧
      ∀ a, a < s.wp.toNat - n ∨ s.wp.toNat ≤ a → t.bufByte a = s.bufByte a

/-- The run-length property: a copy of n bytes at offset 1 is n repetitions of the byte written last before it
(spec/43 R117). -/
def Obligations.OffsetOneRepeatsOneByte : Prop :=
  ∀ (n : Nat) (s t : State), s.host = [] → s.phase = .copy → s.cnt.toNat = n → s.off = 1 →
    run n s = .next t → t.phase = .copy →
    t.wp.toNat = s.wp.toNat - n ∧ ∀ j, 1 ≤ j → j ≤ n → t.bufByte (s.wp.toNat - j) = s.bufByte s.wp.toNat

/-- The 0x13 and 0x14 checks can fail only at the first step of a copy: after a step that completed they pass
(spec/43 R115). -/
def Obligations.RangeFaultsOnlyAtFirstCopyStep : Prop :=
  ∀ s t u : State, s.host = [] → s.phase = .copy → s.cnt ≠ 0 → step s = .next t → t.phase = .copy → t.cnt ≠ 0 →
    step t = .next u → u.phase = .fault → u.faultCause ≠ 0x13 ∧ u.faultCause ≠ 0x14

/-- The end of a copy: `CNT <- NLIT`, `PHASE <- LITERAL` (spec/42 R107). -/
def Obligations.CopyEndBeginsLiteralRun : Prop :=
  ∀ s : State, s.host = [] → s.phase = .copy → s.cnt = 0 →
    step s = .next { s with cnt := s.nlit, phase := .literal, tokenField := .type }

/-- The token boundary test: DONE when `WP` is 0, else the next token (spec/42 R96). -/
def Obligations.BoundaryTestEndsOrContinues : Prop :=
  ∀ s : State, s.host = [] → s.inLiteralRun → s.cnt = 0 →
    (s.wp = 0 → step s = .next { s with phase := .done, tokenField := .type }) ∧
    (s.wp ≠ 0 → step s = .next { s with phase := .token, tokenField := .type })

/-! ## START -/

/-- START while not BUSY, its checks passed and the host's duties kept: what it writes and latches, and nothing else
(spec/42 R94, spec/44 R121), but for the model's own record `begun` of what it found (log entry 7). -/
def Obligations.StartBeginsTheDecode : Prop :=
  ∀ (s : State) (v q : Bool), s.busy = false → s.pmode.toNat ≤ 8 → s.rp.toNat ≤ s.bufLen.toNat →
    s.wp.toNat ≤ s.bufLen.toNat → s.bufLen.toNat ≤ s.params.maxBuf.toNat →
    ((v && s.params.hasVerify) = true → s.wp.toNat ≤ s.expLen.toNat) →
    exec (.start v q) s = .next { s with
      verifyEn := v && s.params.hasVerify
      irqEn := q
      faultCause := 0
      mmPos := 0
      mmData := 0
      verify := v && s.params.hasVerify
      wtop := s.wp
      cnt := s.prefixLen
      phase := .prefixRun
      tokenField := .type
      begun := { rp := s.rp, sr := s.sr, len := s.len, kind := s.kind, off := s.off, nlit := s.nlit, buf := s.buf } }

/-- A START whose checks fail takes 0x31, and only then 0x32, and changes only the cleared registers, `VERIFY`, the `CTRL`
bits it writes, and `PHASE` (spec/42 R94, spec/60 R138, R139). -/
def Obligations.StartChecksParameters : Prop :=
  ∀ (s : State) (v q : Bool), s.busy = false →
    (8 < s.pmode.toNat → exec (.start v q) s = .next { s with
      verifyEn := v && s.params.hasVerify
      irqEn := q
      faultCause := 0x31
      mmPos := 0
      mmData := 0
      verify := v && s.params.hasVerify
      phase := .fault }) ∧
    (s.pmode.toNat ≤ 8 → s.bufLen.toNat < s.rp.toNat ∨ s.bufLen.toNat < s.wp.toNat →
      exec (.start v q) s = .next { s with
        verifyEn := v && s.params.hasVerify
        irqEn := q
        faultCause := 0x32
        mmPos := 0
        mmData := 0
        verify := v && s.params.hasVerify
        phase := .fault })

/-- A START that breaks a host duty is refused by name (spec/44 R129, spec/93 U7, U8). -/
def Obligations.StartRefusesBrokenHostDuty : Prop :=
  ∀ (s : State) (v q : Bool), s.busy = false → s.pmode.toNat ≤ 8 → s.rp.toNat ≤ s.bufLen.toNat →
    s.wp.toNat ≤ s.bufLen.toNat →
    (s.params.maxBuf.toNat < s.bufLen.toNat → exec (.start v q) s = .refused .bufLenOverMax) ∧
    (s.bufLen.toNat ≤ s.params.maxBuf.toNat → v = true → s.params.hasVerify = true → s.expLen.toNat < s.wp.toNat →
      exec (.start v q) s = .refused .expShort)

/-! ## The host interface

The host's moves are the list in the field `host` and what its last read returned is the field `hostData`: the model's own
(log entry 5). -/

/-- While BUSY every register write is ignored entirely, START too (spec/44 R120, R121). -/
def Obligations.RegisterWritesIgnoredWhileBusy : Prop :=
  ∀ (s : State) (offset : BitVec 6) (v : Word) (rest : List HostMove), s.busy = true → offset.toNat % 4 = 0 →
    s.host = .regWrite offset 32 v :: rest → step s = .next { s with host := rest }

/-- While not BUSY a register write sets the writable fields of its register and nothing else; read-only registers and
offsets with no register ignore it (spec/10 R27 to R39, spec/44 R120). -/
def Obligations.RegisterWritesSetTheirFields : Prop :=
  ∀ (s : State) (v : Word) (rest : List HostMove), s.busy = false →
    let after (offset : BitVec 6) : Host.Outcome State Fault Refusal := step { s with host := .regWrite offset 32 v :: rest }
    let s' := { s with host := rest }
    (v.getLsbD 0 = false → after 0x00 = .next { s' with
      verifyEn := v.getLsbD 1 && s.params.hasVerify
      irqEn := v.getLsbD 2 }) ∧
    after 0x0C = .next { s' with rp := v } ∧
    after 0x10 = .next { s' with wp := v } ∧
    after 0x14 = .next { s' with bufLen := v } ∧
    after 0x18 = .next { s' with prefixLen := v } ∧
    after 0x1C = .next { s' with pmode := v.extractLsb' 0 8 } ∧
    after 0x20 = .next { s' with sr := v.extractLsb' 0 8 } ∧
    ∀ offset ∈ [(0x04 : BitVec 6), 0x08, 0x24, 0x28, 0x2C, 0x30, 0x34, 0x38, 0x3C], after offset = .next s'

/-- What a register read returns while not BUSY, register by register; offsets with no register read 0 (spec/10 R27 to
R39). -/
def Obligations.RegisterReadsReturnTheirValues : Prop :=
  ∀ (s : State) (rest : List HostMove), s.busy = false →
    let after (offset : BitVec 6) : Host.Outcome State Fault Refusal := step { s with host := .regRead offset 32 :: rest }
    let gives (v : Word) : Host.Outcome State Fault Refusal := .next { s with host := rest, hostData := v }
    after 0x00 = gives (BitVec.ofNat 32
      (2 * (s.verifyEn && s.params.hasVerify).toNat + 4 * s.irqEn.toNat)) ∧
    after 0x04 = gives (if s.phase = .idle then 0 else if s.phase = .done then 2 else 3) ∧
    after 0x08 = gives (BitVec.ofNat 32 s.faultCause.toNat) ∧
    after 0x0C = gives s.rp ∧
    after 0x10 = gives s.wp ∧
    after 0x14 = gives s.bufLen ∧
    after 0x18 = gives s.prefixLen ∧
    after 0x1C = gives (BitVec.ofNat 32 s.pmode.toNat) ∧
    after 0x20 = gives (BitVec.ofNat 32 s.sr.toNat) ∧
    after 0x24 = gives s.mmPos ∧
    after 0x28 = gives (BitVec.ofNat 32 s.mmData.toNat) ∧
    ∀ offset ∈ [(0x2C : BitVec 6), 0x30, 0x34, 0x38, 0x3C], after offset = gives 0

/-- A register read has no side effect on the core, BUSY or not: it always completes and changes only what the host sees and
the model's count of open reads (spec/20 R54, spec/44 R119). While BUSY every register but three reads as it stands, offsets
with no register read 0, and `RPOS`, `WPOS` and `SREG` read what they hold at some boundary between two primitives of the
decode, bits 31:8 of `SREG` 0 (spec/10 R28 to R39, spec/93 U3). -/
def Obligations.RegisterReadsHaveNoSideEffect : Prop :=
  ∀ (s : State) (offset : BitVec 6) (rest : List HostMove), offset.toNat % 4 = 0 →
    ∃ t, step { s with host := .regRead offset 32 :: rest } = .next t ∧
      t = { s with host := rest, hostData := t.hostData, freeReads := t.freeReads } ∧
      (s.busy = true →
        let during := { s with host := rest }
        (offset = 0x00 → t.hostData = BitVec.ofNat 32
          (2 * (s.verifyEn && s.params.hasVerify).toNat + 4 * s.irqEn.toNat)) ∧
        (offset = 0x04 → t.hostData = 1) ∧
        (offset = 0x08 → t.hostData = BitVec.ofNat 32 s.faultCause.toNat) ∧
        (offset = 0x0C → ∃ c, t.hostData = (during.boundary c).rp) ∧
        (offset = 0x10 → ∃ c, t.hostData = (during.boundary c).wp) ∧
        (offset = 0x14 → t.hostData = s.bufLen) ∧
        (offset = 0x18 → t.hostData = s.prefixLen) ∧
        (offset = 0x1C → t.hostData = BitVec.ofNat 32 s.pmode.toNat) ∧
        (offset = 0x20 → ∃ c, t.hostData = BitVec.ofNat 32 (during.boundary c).sr.toNat) ∧
        (offset = 0x24 → t.hostData = s.mmPos) ∧
        (offset = 0x28 → t.hostData = BitVec.ofNat 32 s.mmData.toNat) ∧
        (offset ∈ [(0x2C : BitVec 6), 0x30, 0x34, 0x38, 0x3C] → t.hostData = 0))

/-- A register access that is not an aligned 32-bit word is refused (spec/20 R53). -/
def Obligations.OtherRegisterAccessesRefused : Prop :=
  ∀ (s : State) (offset : BitVec 6) (width : Nat) (v : Word) (rest : List HostMove),
    width ≠ 32 ∨ offset.toNat % 4 ≠ 0 →
    step { s with host := .regRead offset width :: rest } = .refused .registerAccess ∧
      step { s with host := .regWrite offset width v :: rest } = .refused .registerAccess

/-- The host's byte accesses to `BUF` and `EXP`, and its supply of an `EXP` of `n` bytes: refused while BUSY; else, at a byte
that exists, a write changes that byte of that memory alone and a read nothing but what the host sees (spec/44 R129, spec/20
R44, R45, spec/93 U4). The supply sets the model's own `expLen` alone (log entry 6); where there is no such byte the model
stops (log entry 10). -/
def Obligations.HostBufferAccesses : Prop :=
  ∀ (s : State) (a n : Word) (v : Byte) (rest : List HostMove),
    let after (m : HostMove) : Host.Outcome State Fault Refusal := step { s with host := m :: rest }
    (s.busy = true → ∀ m ∈ [HostMove.bufRead a, .bufWrite a v, .expRead a, .expWrite a v, .expSupply n],
      after m = .refused .bufferWhileBusy) ∧
    (s.busy = false →
      (a.toNat < s.params.maxBuf.toNat →
        after (.bufRead a) = .next { s with host := rest, hostData := BitVec.ofNat 32 (s.bufByte a.toNat).toNat } ∧
        ∃ t, after (.bufWrite a v) = .next t ∧ t = { s with host := rest, buf := t.buf } ∧
          ∀ k, t.bufByte k = if k = a.toNat then v else s.bufByte k) ∧
      (s.params.maxBuf.toNat ≤ a.toNat →
        after (.bufRead a) = .fault .bufAddress ∧ after (.bufWrite a v) = .fault .bufAddress) ∧
      (s.params.hasVerify = true → a.toNat < s.expLen.toNat →
        after (.expRead a) = .next { s with host := rest, hostData := BitVec.ofNat 32 (s.expByte a.toNat).toNat } ∧
        ∃ t, after (.expWrite a v) = .next t ∧ t = { s with host := rest, exp := t.exp } ∧
          ∀ k, t.expByte k = if k = a.toNat then v else s.expByte k) ∧
      (s.params.hasVerify = false ∨ s.expLen.toNat ≤ a.toNat →
        after (.expRead a) = .fault .expAddress ∧ after (.expWrite a v) = .fault .expAddress) ∧
      (s.params.hasVerify = true → after (.expSupply n) = .next { s with host := rest, expLen := n }) ∧
      (s.params.hasVerify = false → after (.expSupply n) = .fault .expAddress))

/-- Reset loads every register with its reset value, leaves `BUF` and `EXP`, and puts the core in IDLE with the `IRQ` line
low, whatever it was doing (spec/70 R149, R150). -/
def Obligations.ResetLoadsResetValues : Prop :=
  ∀ (s : State) (rest : List HostMove), ∃ t, step { s with host := .reset :: rest } = .next t ∧
    t.phase = .idle ∧ t.rp = 0 ∧ t.wp = 0 ∧ t.sr = 0x80 ∧ t.wtop = 0 ∧ t.verify = false ∧ t.verifyEn = false ∧
    t.irqEn = false ∧ t.faultCause = 0 ∧ t.bufLen = 0 ∧ t.prefixLen = 0 ∧ t.pmode = 0 ∧ t.mmPos = 0 ∧ t.mmData = 0 ∧
    t.params = s.params ∧ t.irq = false ∧ t.host = rest ∧
    (∀ a, t.bufByte a = s.bufByte a) ∧ ∀ a, t.expByte a = s.expByte a

/-- `State.reset` has the reset values of spec/70 R150. -/
def Obligations.PowerUpHasResetValues : Prop :=
  State.reset.phase = .idle ∧ State.reset.rp = 0 ∧ State.reset.wp = 0 ∧ State.reset.sr = 0x80 ∧
    State.reset.wtop = 0 ∧ State.reset.verify = false ∧ State.reset.ctrl = 0 ∧ State.reset.faultCause = 0 ∧
    State.reset.bufLen = 0 ∧ State.reset.prefixLen = 0 ∧ State.reset.pmode = 0 ∧ State.reset.mmPos = 0 ∧
    State.reset.mmData = 0 ∧ State.reset.irq = false ∧ State.reset.phase.stateCode = 0

/-- What the host sees of the end of a decode: the completion interrupt line (spec/60 R145), which a START that begins a decode
lowers; and its report (spec/44 R128): at DONE the first bytes of `BUF`, in FAULT the error of the cause's class, before that
nothing. -/
def Obligations.InterruptLineFollowsState : Prop :=
  (∀ s : State, s.irq = true ↔ s.irqEn = true ∧ (s.phase = .done ∨ s.phase = .fault)) ∧
  (∀ (s t : State) (v q : Bool), exec (.start v q) s = .next t → t.phase ≠ .fault → t.irq = false) ∧
  ∀ (s : State) (full : Nat),
    (s.phase = .done → ∃ out, hostReport full s = some (.ok out) ∧ out.length = full ∧
      ∀ k, k < full → out[k]? = some (s.bufByte k)) ∧
    (∀ c, hostReport full (s.faultEntry c) = some (.error
      (if c = .integrityMismatch then .integrityMismatch s.mmPos (s.mmData.extractLsb' 0 8) (s.mmData.extractLsb' 8 8)
       else .malformedStream))) ∧
    (s.phase ≠ .done → s.phase ≠ .fault → hostReport full s = none)

/-! ## Faults -/

/-- Fault entry writes the cause's code and `PHASE`, and nothing else; `STATUS.STATE` is then 3 and the `IRQ` line follows
its enable (spec/60 R132, R142). -/
def Obligations.FaultEntryRecordsTheCause : Prop :=
  ∀ s : State,
    (∀ c, (s.faultEntry c).regValue .status = 3 ∧ (s.faultEntry c).irq = s.irqEn) ∧
    s.faultEntry .readUnderflow = { s with faultCause := 0x11, phase := .fault } ∧
    s.faultEntry .writeUnderflow = { s with faultCause := 0x12, phase := .fault } ∧
    s.faultEntry .backrefRange = { s with faultCause := 0x13, phase := .fault } ∧
    s.faultEntry .backrefZero = { s with faultCause := 0x14, phase := .fault } ∧
    s.faultEntry .integrityMismatch = { s with faultCause := 0x21, phase := .fault } ∧
    s.faultEntry .badPmode = { s with faultCause := 0x31, phase := .fault } ∧
    s.faultEntry .badPosition = { s with faultCause := 0x32, phase := .fault }

/-- IDLE, DONE and FAULT do nothing until the host acts (spec/60 R148), and only START or reset leaves FAULT (R144). -/
def Obligations.FaultIsLeftOnlyByStartOrReset : Prop :=
  (∀ s : State, s.host = [] → s.busy = false → step s = .next s) ∧
  ∀ s t : State, s.phase = .fault → step s = .next t → t.phase ≠ .fault →
    ∃ m rest, s.host = m :: rest ∧ (m = .reset ∨ (startOf m).isSome = true)

/-- `PHASE` changes only by the rows of the phase table and by reset (spec/42 R110). -/
def Obligations.PhaseChangesFollowTheTable : Prop :=
  ∀ s t : State, step s = .next t → t.phase ≠ s.phase →
    (s.host.head? = some .reset ∧ t.phase = .idle) ∨
    (s.busy = false ∧ (∃ m, s.host.head? = some m ∧ (startOf m).isSome = true) ∧
      (t.phase = .prefixRun ∨ t.phase = .fault)) ∨
    ((s.host = [] ∨ s.host.head? = some .wait) ∧ s.busy = true ∧
      ((s.inLiteralRun ∧ s.cnt = 0 ∧ s.wp = 0 ∧ t.phase = .done) ∨
       (s.inLiteralRun ∧ s.cnt = 0 ∧ s.wp ≠ 0 ∧ t.phase = .token) ∨
       (s.phase = .token ∧ t.phase = .copy ∧ t.cnt = s.len) ∨
       (s.phase = .copy ∧ s.cnt = 0 ∧ t.phase = .literal ∧ t.cnt = s.nlit) ∨
       t.phase = .fault))

/-! ## The whole machine -/

/-- Every step, of the core or of the host, keeps the invariant. -/
def Obligations.StepKeepsTheInvariant : Prop :=
  ∀ s t : State, Inv s → step s = .next t → Inv t

/-- The invariant holds right after reset. -/
def Obligations.ResetMeetsTheInvariant : Prop := Inv State.reset

/-- The core never addresses anything outside the prepared buffer, the supplied `EXP` or its tables, and never stops: from
every state that meets the invariant it has a next state (spec/20 R44). -/
def Obligations.CoreNeverLeavesTheBuffer : Prop :=
  ∀ s : State, Inv s → s.host = [] → ∃ t, step s = .next t

/-- No step changes the tables or any other parameter (spec/10 R41), and the core never writes `EXP` (spec/20 R45). -/
def Obligations.ParametersAreConstant : Prop :=
  ∀ s t : State, step s = .next t →
    t.params = s.params ∧ (s.host = [] → t.exp = s.exp ∧ t.expLen = s.expLen ∧ t.hostData = s.hostData)

/-- What a decode changes: over any number of steps of the core alone, both cursors only fall, `WTOP` stays, and the bytes
changed all lie between the new `WP` and the old one (spec/10 R16, R17, R19, spec/43 R118). -/
def Obligations.DecodeWritesOnlyBelowWritePosition : Prop :=
  ∀ (n : Nat) (s t : State), s.host = [] → run n s = .next t →
    t.wp.toNat ≤ s.wp.toNat ∧ t.rp.toNat ≤ s.rp.toNat ∧ t.wtop = s.wtop ∧ t.bufLen = s.bufLen ∧
      ∀ a, a < t.wp.toNat ∨ s.wp.toNat ≤ a → t.bufByte a = s.bufByte a

/-- Every decode ends, in DONE or FAULT, within a number of steps bounded by the output space left, whatever the stream and
the seed (spec/42 R109). -/
def Obligations.EveryDecodeTerminates : Prop :=
  ∀ s : State, Inv s → s.host = [] → s.busy = true →
    ∃ n t, n ≤ 4 * s.wp.toNat + 4 ∧ run n s = .next t ∧ t.ended

/-- Verification does not alter the decode: a step whose write agrees with `EXP`, or that writes nothing, is the step without
verification; one whose write disagrees differs from it only by fault 0x21, with `MM_POS` and `MM_DATA` set and `CNT` not
counted down (spec/43 R112, spec/60 R137, R142). -/
def Obligations.VerificationDoesNotAlterTheDecode : Prop :=
  ∀ s t : State, Inv s → s.host = [] → s.params.hasVerify = true → s.verify = true →
    step { s with verify := false } = .next t →
    (t.wp = s.wp ∨ s.expByte t.wp.toNat = t.bufByte t.wp.toNat → step s = .next { t with verify := true }) ∧
    (t.wp ≠ s.wp → s.expByte t.wp.toNat ≠ t.bufByte t.wp.toNat →
      step s = .next { t with
        verify := true
        cnt := s.cnt
        phase := .fault
        faultCause := 0x21
        mmPos := t.wp
        mmData := t.bufByte t.wp.toNat ++ s.expByte t.wp.toNat })

/-! ## Container preparation -/

/-- Header relocation and buffer growth (spec/44 R125, R126). Relocation keeps the length; the first `min(packed, 18)` bytes
end at `packed`, as if read first, every other byte stays, and a payload of at most 18 bytes is copied onto itself. For a file
the host accepts the buffer is the relocated file with bytes 0x00 appended up to `full_length`. -/
def Obligations.RelocationMovesTheHeaderBytes : Prop :=
  (∀ (f : List Byte) (packed : Nat), packed ≤ f.length →
    (relocate packed f).length = f.length ∧
    (∀ k, k < min packed 18 → (relocate packed f)[packed - min packed 18 + k]? = f[k]?) ∧
    (∀ k, k < packed - min packed 18 ∨ packed ≤ k → (relocate packed f)[k]? = f[k]?) ∧
    (packed ≤ 18 → relocate packed f = f)) ∧
  ∀ (p : Params) (f : List Byte),
    let h := parseHeader f
    18 ≤ f.length → h.magic = p.magic → h.packedLength.toNat ≤ f.length → f.length ≤ h.fullLength.toNat →
    h.fullLength.toNat ≤ p.maxBuf.toNat →
    ∃ b, prepare p f = .ok (h, b) ∧ b.length = h.fullLength.toNat ∧
      (∀ k, k < f.length → b[k]? = (relocate h.packedLength.toNat f)[k]?) ∧
      ∀ k, f.length ≤ k → k < h.fullLength.toNat → b[k]? = some 0

/-- The boot sequence. A file the host refuses is not booted (spec/44 R122, R130): NotRecognized if it is short or its magic
differs, else MalformedStream if its lengths have no meaning. For a prepared container the host's moves, from any state that is
not BUSY, begin the decode with the convention's registers and the prepared buffer, verified exactly when an expected output is
given, with `EXP` loaded with it (spec/44 R127, spec/70 R151). -/
def Obligations.BootSequenceBeginsTheDecode : Prop :=
  (∀ (p : Params) (f : List Byte),
    let h := parseHeader f
    (f.length < 18 ∨ h.magic ≠ p.magic → detect p f = none ∧ prepare p f = .error .notRecognized) ∧
    (18 ≤ f.length → h.magic = p.magic → detect p f = some h.fullLength ∧
      (f.length < h.packedLength.toNat ∨ h.fullLength.toNat < f.length ∨ p.maxBuf.toNat < h.fullLength.toNat →
        prepare p f = .error .malformedStream))) ∧
  ∀ (s : State) (f b : List Byte) (h : Header) (expected : Option (List Byte)) (irqEn : Bool), s.busy = false →
    prepare s.params f = .ok (h, b) → h.packMode.toNat ≤ 8 →
    (∀ e, expected = some e → s.params.hasVerify = true ∧ h.fullLength.toNat ≤ e.length ∧ e.length < 2 ^ 32) →
    s.host = bootMoves h b expected irqEn →
    ∃ t, run s.host.length s = .next t ∧ t.phase = .prefixRun ∧ t.host = [] ∧
      t.rp = h.packedLength ∧ t.wp = h.fullLength ∧ t.wtop = h.fullLength ∧ t.bufLen = h.fullLength ∧
      t.cnt = h.unpackedPrefix ∧ t.pmode = h.packMode ∧ t.sr = h.shiftSeed ∧
      t.verify = expected.isSome ∧ t.verifyEn = expected.isSome ∧ t.irqEn = irqEn ∧
      (∀ (k : Nat) (hk : k < b.length), t.bufByte k = b[k]) ∧ b.length = h.fullLength.toNat ∧
      ∀ e, expected = some e → t.expLen.toNat = e.length ∧ ∀ (k : Nat) (hk : k < e.length), t.expByte k = e[k]
end

