-- ==== Sys2Proof/Laws/Memory.lean ====
section
/-!
SUPPORT. The laws of `BUF` and `EXP`: a read after a write, and the canonical form, which every memory operation keeps.
-/

namespace Sys2Proof.Machine

/-- A byte written is what is there, and every other byte is as before. -/
@[simp] theorem Memory.lookup_store (m : Memory) (a b : Nat) (v : Byte) :
    (m.store a v).lookup b = if b = a then some v else m.lookup b := by
  induction m with
  | nil => simp [Memory.store, Memory.lookup, eq_comm]
  | cons c m ih =>
    obtain ⟨k, w⟩ := c
    by_cases hlt : a < k
    · simp [Memory.store, Memory.lookup, hlt, eq_comm]
    · by_cases heq : a = k
      · subst heq
        by_cases hb : b = a
        · simp [Memory.store, Memory.lookup, hb]
        · simp [Memory.store, Memory.lookup, hb, Ne.symm hb]
      · by_cases hb : b = a
        · subst hb
          simp [Memory.store, Memory.lookup, hlt, heq, Ne.symm heq, ih]
        · simp [Memory.store, Memory.lookup, hlt, heq, hb, ih]

/-- The addresses after a write: the one written and those listed before. -/
theorem Memory.mem_store {m : Memory} {a k : Nat} {v : Byte} (h : k ∈ (m.store a v).map Prod.fst) :
    k = a ∨ k ∈ m.map Prod.fst := by
  induction m with
  | nil => simpa [Memory.store] using h
  | cons c m ih =>
    obtain ⟨j, w⟩ := c
    by_cases hlt : a < j
    · simpa [Memory.store, hlt] using h
    · by_cases heq : a = j
      · subst heq
        simp only [Memory.store, lt_irrefl, if_false, if_true, List.map_cons, List.mem_cons] at h ⊢
        tauto
      · simp only [Memory.store, hlt, heq, if_false, List.map_cons, List.mem_cons] at h ⊢
        rcases h with h | h
        · tauto
        · rcases ih h with h | h <;> tauto

/-- A write keeps the canonical form. -/
theorem Memory.store_wf {m : Memory} (a : Nat) (v : Byte) (h : m.wf) : (m.store a v).wf := by
  induction m with
  | nil => simp [Memory.wf, Memory.store]
  | cons c m ih =>
    obtain ⟨k, w⟩ := c
    have hc : (∀ j ∈ m.map Prod.fst, k < j) ∧ (m.map Prod.fst).Pairwise (· < ·) := List.pairwise_cons.mp h
    by_cases hlt : a < k
    · simp only [Memory.wf, Memory.store, hlt, if_true, List.map_cons]
      refine List.pairwise_cons.mpr ⟨fun j hj => ?_, h⟩
      rcases List.mem_cons.mp hj with rfl | hj
      · exact hlt
      · exact hlt.trans (hc.1 j hj)
    · by_cases heq : a = k
      · subst heq
        simpa [Memory.wf, Memory.store] using hc
      · simp only [Memory.wf, Memory.store, hlt, heq, if_false, List.map_cons]
        refine List.pairwise_cons.mpr ⟨fun j hj => ?_, ih hc.2⟩
        rcases Memory.mem_store hj with rfl | hj
        · omega
        · exact hc.1 j hj

/-- Reset's memories have the canonical form. -/
theorem reset_memory_wf : State.reset.buf.wf ∧ State.reset.exp.wf := by simp [State.reset, Memory.wf]

/-- The memory a stream of bytes is placed in stays canonical. -/
theorem storeStream_wf {bytes : List Byte} {m : Memory} (h : m.wf) : (storeStream bytes m).wf := by
  induction bytes generalizing m with
  | nil => exact h
  | cons b bytes ih => exact ih (Memory.store_wf _ _ h)

/-- Reading `BUF` after `writeByte`'s update. -/
@[simp] theorem bufByte_putByte (s : State) (wp : Word) (v : Byte) (a : Nat) :
    (s.putByte wp v).bufByte a = if a = wp.toNat then v else s.bufByte a := by
  by_cases h : a = wp.toNat <;> simp [State.bufByte, State.putByte, h]

/-- `writeByte`'s update keeps the canonical form. -/
theorem putByte_wf {s : State} (wp : Word) (v : Byte) (h : s.buf.wf) : (s.putByte wp v).buf.wf :=
  Memory.store_wf _ _ h

end Sys2Proof.Machine
end

