-- ==== Sys2Proof/Laws/State.lean ====
section
/-!
SUPPORT. What each named update of the state leaves in each field: one lemma per field per update.
-/

namespace Sys2Proof.Machine

/-! ## setCursor -/

@[simp] theorem setCursor_params (s : State) (a : Word) (b : Byte) : (s.setCursor a b).params = s.params := rfl
@[simp] theorem setCursor_rp (s : State) (a : Word) (b : Byte) : (s.setCursor a b).rp = a := rfl
@[simp] theorem setCursor_wp (s : State) (a : Word) (b : Byte) : (s.setCursor a b).wp = s.wp := rfl
@[simp] theorem setCursor_sr (s : State) (a : Word) (b : Byte) : (s.setCursor a b).sr = b := rfl
@[simp] theorem setCursor_wtop (s : State) (a : Word) (b : Byte) : (s.setCursor a b).wtop = s.wtop := rfl
@[simp] theorem setCursor_cnt (s : State) (a : Word) (b : Byte) : (s.setCursor a b).cnt = s.cnt := rfl
@[simp] theorem setCursor_len (s : State) (a : Word) (b : Byte) : (s.setCursor a b).len = s.len := rfl
@[simp] theorem setCursor_kind (s : State) (a : Word) (b : Byte) : (s.setCursor a b).kind = s.kind := rfl
@[simp] theorem setCursor_off (s : State) (a : Word) (b : Byte) : (s.setCursor a b).off = s.off := rfl
@[simp] theorem setCursor_nlit (s : State) (a : Word) (b : Byte) : (s.setCursor a b).nlit = s.nlit := rfl
@[simp] theorem setCursor_phase (s : State) (a : Word) (b : Byte) : (s.setCursor a b).phase = s.phase := rfl
@[simp] theorem setCursor_tokenField (s : State) (a : Word) (b : Byte) : (s.setCursor a b).tokenField = s.tokenField := rfl
@[simp] theorem setCursor_verify (s : State) (a : Word) (b : Byte) : (s.setCursor a b).verify = s.verify := rfl
@[simp] theorem setCursor_verifyEn (s : State) (a : Word) (b : Byte) : (s.setCursor a b).verifyEn = s.verifyEn := rfl
@[simp] theorem setCursor_irqEn (s : State) (a : Word) (b : Byte) : (s.setCursor a b).irqEn = s.irqEn := rfl
@[simp] theorem setCursor_faultCause (s : State) (a : Word) (b : Byte) : (s.setCursor a b).faultCause = s.faultCause := rfl
@[simp] theorem setCursor_bufLen (s : State) (a : Word) (b : Byte) : (s.setCursor a b).bufLen = s.bufLen := rfl
@[simp] theorem setCursor_prefixLen (s : State) (a : Word) (b : Byte) : (s.setCursor a b).prefixLen = s.prefixLen := rfl
@[simp] theorem setCursor_pmode (s : State) (a : Word) (b : Byte) : (s.setCursor a b).pmode = s.pmode := rfl
@[simp] theorem setCursor_mmPos (s : State) (a : Word) (b : Byte) : (s.setCursor a b).mmPos = s.mmPos := rfl
@[simp] theorem setCursor_mmData (s : State) (a : Word) (b : Byte) : (s.setCursor a b).mmData = s.mmData := rfl
@[simp] theorem setCursor_buf (s : State) (a : Word) (b : Byte) : (s.setCursor a b).buf = s.buf := rfl
@[simp] theorem setCursor_exp (s : State) (a : Word) (b : Byte) : (s.setCursor a b).exp = s.exp := rfl
@[simp] theorem setCursor_expLen (s : State) (a : Word) (b : Byte) : (s.setCursor a b).expLen = s.expLen := rfl
@[simp] theorem setCursor_host (s : State) (a : Word) (b : Byte) : (s.setCursor a b).host = s.host := rfl
@[simp] theorem setCursor_hostData (s : State) (a : Word) (b : Byte) : (s.setCursor a b).hostData = s.hostData := rfl
@[simp] theorem setCursor_freeReads (s : State) (a : Word) (b : Byte) : (s.setCursor a b).freeReads = s.freeReads := rfl
@[simp] theorem setCursor_begun (s : State) (a : Word) (b : Byte) : (s.setCursor a b).begun = s.begun := rfl

/-! ## putByte -/

@[simp] theorem putByte_params (s : State) (a : Word) (b : Byte) : (s.putByte a b).params = s.params := rfl
@[simp] theorem putByte_rp (s : State) (a : Word) (b : Byte) : (s.putByte a b).rp = s.rp := rfl
@[simp] theorem putByte_wp (s : State) (a : Word) (b : Byte) : (s.putByte a b).wp = a := rfl
@[simp] theorem putByte_sr (s : State) (a : Word) (b : Byte) : (s.putByte a b).sr = s.sr := rfl
@[simp] theorem putByte_wtop (s : State) (a : Word) (b : Byte) : (s.putByte a b).wtop = s.wtop := rfl
@[simp] theorem putByte_cnt (s : State) (a : Word) (b : Byte) : (s.putByte a b).cnt = s.cnt := rfl
@[simp] theorem putByte_len (s : State) (a : Word) (b : Byte) : (s.putByte a b).len = s.len := rfl
@[simp] theorem putByte_kind (s : State) (a : Word) (b : Byte) : (s.putByte a b).kind = s.kind := rfl
@[simp] theorem putByte_off (s : State) (a : Word) (b : Byte) : (s.putByte a b).off = s.off := rfl
@[simp] theorem putByte_nlit (s : State) (a : Word) (b : Byte) : (s.putByte a b).nlit = s.nlit := rfl
@[simp] theorem putByte_phase (s : State) (a : Word) (b : Byte) : (s.putByte a b).phase = s.phase := rfl
@[simp] theorem putByte_tokenField (s : State) (a : Word) (b : Byte) : (s.putByte a b).tokenField = s.tokenField := rfl
@[simp] theorem putByte_verify (s : State) (a : Word) (b : Byte) : (s.putByte a b).verify = s.verify := rfl
@[simp] theorem putByte_verifyEn (s : State) (a : Word) (b : Byte) : (s.putByte a b).verifyEn = s.verifyEn := rfl
@[simp] theorem putByte_irqEn (s : State) (a : Word) (b : Byte) : (s.putByte a b).irqEn = s.irqEn := rfl
@[simp] theorem putByte_faultCause (s : State) (a : Word) (b : Byte) : (s.putByte a b).faultCause = s.faultCause := rfl
@[simp] theorem putByte_bufLen (s : State) (a : Word) (b : Byte) : (s.putByte a b).bufLen = s.bufLen := rfl
@[simp] theorem putByte_prefixLen (s : State) (a : Word) (b : Byte) : (s.putByte a b).prefixLen = s.prefixLen := rfl
@[simp] theorem putByte_pmode (s : State) (a : Word) (b : Byte) : (s.putByte a b).pmode = s.pmode := rfl
@[simp] theorem putByte_mmPos (s : State) (a : Word) (b : Byte) : (s.putByte a b).mmPos = s.mmPos := rfl
@[simp] theorem putByte_mmData (s : State) (a : Word) (b : Byte) : (s.putByte a b).mmData = s.mmData := rfl
@[simp] theorem putByte_buf (s : State) (a : Word) (b : Byte) : (s.putByte a b).buf = s.buf.store a.toNat b := rfl
@[simp] theorem putByte_exp (s : State) (a : Word) (b : Byte) : (s.putByte a b).exp = s.exp := rfl
@[simp] theorem putByte_expLen (s : State) (a : Word) (b : Byte) : (s.putByte a b).expLen = s.expLen := rfl
@[simp] theorem putByte_host (s : State) (a : Word) (b : Byte) : (s.putByte a b).host = s.host := rfl
@[simp] theorem putByte_hostData (s : State) (a : Word) (b : Byte) : (s.putByte a b).hostData = s.hostData := rfl
@[simp] theorem putByte_freeReads (s : State) (a : Word) (b : Byte) : (s.putByte a b).freeReads = s.freeReads := rfl
@[simp] theorem putByte_begun (s : State) (a : Word) (b : Byte) : (s.putByte a b).begun = s.begun := rfl

/-! ## setCnt -/

@[simp] theorem setCnt_params (s : State) (n : Word) : (s.setCnt n).params = s.params := rfl
@[simp] theorem setCnt_rp (s : State) (n : Word) : (s.setCnt n).rp = s.rp := rfl
@[simp] theorem setCnt_wp (s : State) (n : Word) : (s.setCnt n).wp = s.wp := rfl
@[simp] theorem setCnt_sr (s : State) (n : Word) : (s.setCnt n).sr = s.sr := rfl
@[simp] theorem setCnt_wtop (s : State) (n : Word) : (s.setCnt n).wtop = s.wtop := rfl
@[simp] theorem setCnt_cnt (s : State) (n : Word) : (s.setCnt n).cnt = n := rfl
@[simp] theorem setCnt_len (s : State) (n : Word) : (s.setCnt n).len = s.len := rfl
@[simp] theorem setCnt_kind (s : State) (n : Word) : (s.setCnt n).kind = s.kind := rfl
@[simp] theorem setCnt_off (s : State) (n : Word) : (s.setCnt n).off = s.off := rfl
@[simp] theorem setCnt_nlit (s : State) (n : Word) : (s.setCnt n).nlit = s.nlit := rfl
@[simp] theorem setCnt_phase (s : State) (n : Word) : (s.setCnt n).phase = s.phase := rfl
@[simp] theorem setCnt_tokenField (s : State) (n : Word) : (s.setCnt n).tokenField = s.tokenField := rfl
@[simp] theorem setCnt_verify (s : State) (n : Word) : (s.setCnt n).verify = s.verify := rfl
@[simp] theorem setCnt_verifyEn (s : State) (n : Word) : (s.setCnt n).verifyEn = s.verifyEn := rfl
@[simp] theorem setCnt_irqEn (s : State) (n : Word) : (s.setCnt n).irqEn = s.irqEn := rfl
@[simp] theorem setCnt_faultCause (s : State) (n : Word) : (s.setCnt n).faultCause = s.faultCause := rfl
@[simp] theorem setCnt_bufLen (s : State) (n : Word) : (s.setCnt n).bufLen = s.bufLen := rfl
@[simp] theorem setCnt_prefixLen (s : State) (n : Word) : (s.setCnt n).prefixLen = s.prefixLen := rfl
@[simp] theorem setCnt_pmode (s : State) (n : Word) : (s.setCnt n).pmode = s.pmode := rfl
@[simp] theorem setCnt_mmPos (s : State) (n : Word) : (s.setCnt n).mmPos = s.mmPos := rfl
@[simp] theorem setCnt_mmData (s : State) (n : Word) : (s.setCnt n).mmData = s.mmData := rfl
@[simp] theorem setCnt_buf (s : State) (n : Word) : (s.setCnt n).buf = s.buf := rfl
@[simp] theorem setCnt_exp (s : State) (n : Word) : (s.setCnt n).exp = s.exp := rfl
@[simp] theorem setCnt_expLen (s : State) (n : Word) : (s.setCnt n).expLen = s.expLen := rfl
@[simp] theorem setCnt_host (s : State) (n : Word) : (s.setCnt n).host = s.host := rfl
@[simp] theorem setCnt_hostData (s : State) (n : Word) : (s.setCnt n).hostData = s.hostData := rfl
@[simp] theorem setCnt_freeReads (s : State) (n : Word) : (s.setCnt n).freeReads = s.freeReads := rfl
@[simp] theorem setCnt_begun (s : State) (n : Word) : (s.setCnt n).begun = s.begun := rfl

/-! ## setPhase -/

@[simp] theorem setPhase_params (s : State) (p : Phase) : (s.setPhase p).params = s.params := rfl
@[simp] theorem setPhase_rp (s : State) (p : Phase) : (s.setPhase p).rp = s.rp := rfl
@[simp] theorem setPhase_wp (s : State) (p : Phase) : (s.setPhase p).wp = s.wp := rfl
@[simp] theorem setPhase_sr (s : State) (p : Phase) : (s.setPhase p).sr = s.sr := rfl
@[simp] theorem setPhase_wtop (s : State) (p : Phase) : (s.setPhase p).wtop = s.wtop := rfl
@[simp] theorem setPhase_cnt (s : State) (p : Phase) : (s.setPhase p).cnt = s.cnt := rfl
@[simp] theorem setPhase_len (s : State) (p : Phase) : (s.setPhase p).len = s.len := rfl
@[simp] theorem setPhase_kind (s : State) (p : Phase) : (s.setPhase p).kind = s.kind := rfl
@[simp] theorem setPhase_off (s : State) (p : Phase) : (s.setPhase p).off = s.off := rfl
@[simp] theorem setPhase_nlit (s : State) (p : Phase) : (s.setPhase p).nlit = s.nlit := rfl
@[simp] theorem setPhase_phase (s : State) (p : Phase) : (s.setPhase p).phase = p := rfl
@[simp] theorem setPhase_tokenField (s : State) (p : Phase) : (s.setPhase p).tokenField = .type := rfl
@[simp] theorem setPhase_verify (s : State) (p : Phase) : (s.setPhase p).verify = s.verify := rfl
@[simp] theorem setPhase_verifyEn (s : State) (p : Phase) : (s.setPhase p).verifyEn = s.verifyEn := rfl
@[simp] theorem setPhase_irqEn (s : State) (p : Phase) : (s.setPhase p).irqEn = s.irqEn := rfl
@[simp] theorem setPhase_faultCause (s : State) (p : Phase) : (s.setPhase p).faultCause = s.faultCause := rfl
@[simp] theorem setPhase_bufLen (s : State) (p : Phase) : (s.setPhase p).bufLen = s.bufLen := rfl
@[simp] theorem setPhase_prefixLen (s : State) (p : Phase) : (s.setPhase p).prefixLen = s.prefixLen := rfl
@[simp] theorem setPhase_pmode (s : State) (p : Phase) : (s.setPhase p).pmode = s.pmode := rfl
@[simp] theorem setPhase_mmPos (s : State) (p : Phase) : (s.setPhase p).mmPos = s.mmPos := rfl
@[simp] theorem setPhase_mmData (s : State) (p : Phase) : (s.setPhase p).mmData = s.mmData := rfl
@[simp] theorem setPhase_buf (s : State) (p : Phase) : (s.setPhase p).buf = s.buf := rfl
@[simp] theorem setPhase_exp (s : State) (p : Phase) : (s.setPhase p).exp = s.exp := rfl
@[simp] theorem setPhase_expLen (s : State) (p : Phase) : (s.setPhase p).expLen = s.expLen := rfl
@[simp] theorem setPhase_host (s : State) (p : Phase) : (s.setPhase p).host = s.host := rfl
@[simp] theorem setPhase_hostData (s : State) (p : Phase) : (s.setPhase p).hostData = s.hostData := rfl
@[simp] theorem setPhase_freeReads (s : State) (p : Phase) : (s.setPhase p).freeReads = s.freeReads := rfl
@[simp] theorem setPhase_begun (s : State) (p : Phase) : (s.setPhase p).begun = s.begun := rfl

/-! ## setLength -/

@[simp] theorem setLength_params (s : State) (n : Word) (k : BitVec 2) : (s.setLength n k).params = s.params := rfl
@[simp] theorem setLength_rp (s : State) (n : Word) (k : BitVec 2) : (s.setLength n k).rp = s.rp := rfl
@[simp] theorem setLength_wp (s : State) (n : Word) (k : BitVec 2) : (s.setLength n k).wp = s.wp := rfl
@[simp] theorem setLength_sr (s : State) (n : Word) (k : BitVec 2) : (s.setLength n k).sr = s.sr := rfl
@[simp] theorem setLength_wtop (s : State) (n : Word) (k : BitVec 2) : (s.setLength n k).wtop = s.wtop := rfl
@[simp] theorem setLength_cnt (s : State) (n : Word) (k : BitVec 2) : (s.setLength n k).cnt = s.cnt := rfl
@[simp] theorem setLength_len (s : State) (n : Word) (k : BitVec 2) : (s.setLength n k).len = n := rfl
@[simp] theorem setLength_kind (s : State) (n : Word) (k : BitVec 2) : (s.setLength n k).kind = k := rfl
@[simp] theorem setLength_off (s : State) (n : Word) (k : BitVec 2) : (s.setLength n k).off = s.off := rfl
@[simp] theorem setLength_nlit (s : State) (n : Word) (k : BitVec 2) : (s.setLength n k).nlit = s.nlit := rfl
@[simp] theorem setLength_phase (s : State) (n : Word) (k : BitVec 2) : (s.setLength n k).phase = s.phase := rfl
@[simp] theorem setLength_tokenField (s : State) (n : Word) (k : BitVec 2) : (s.setLength n k).tokenField = .offset := rfl
@[simp] theorem setLength_verify (s : State) (n : Word) (k : BitVec 2) : (s.setLength n k).verify = s.verify := rfl
@[simp] theorem setLength_verifyEn (s : State) (n : Word) (k : BitVec 2) : (s.setLength n k).verifyEn = s.verifyEn := rfl
@[simp] theorem setLength_irqEn (s : State) (n : Word) (k : BitVec 2) : (s.setLength n k).irqEn = s.irqEn := rfl
@[simp] theorem setLength_faultCause (s : State) (n : Word) (k : BitVec 2) : (s.setLength n k).faultCause = s.faultCause := rfl
@[simp] theorem setLength_bufLen (s : State) (n : Word) (k : BitVec 2) : (s.setLength n k).bufLen = s.bufLen := rfl
@[simp] theorem setLength_prefixLen (s : State) (n : Word) (k : BitVec 2) : (s.setLength n k).prefixLen = s.prefixLen := rfl
@[simp] theorem setLength_pmode (s : State) (n : Word) (k : BitVec 2) : (s.setLength n k).pmode = s.pmode := rfl
@[simp] theorem setLength_mmPos (s : State) (n : Word) (k : BitVec 2) : (s.setLength n k).mmPos = s.mmPos := rfl
@[simp] theorem setLength_mmData (s : State) (n : Word) (k : BitVec 2) : (s.setLength n k).mmData = s.mmData := rfl
@[simp] theorem setLength_buf (s : State) (n : Word) (k : BitVec 2) : (s.setLength n k).buf = s.buf := rfl
@[simp] theorem setLength_exp (s : State) (n : Word) (k : BitVec 2) : (s.setLength n k).exp = s.exp := rfl
@[simp] theorem setLength_expLen (s : State) (n : Word) (k : BitVec 2) : (s.setLength n k).expLen = s.expLen := rfl
@[simp] theorem setLength_host (s : State) (n : Word) (k : BitVec 2) : (s.setLength n k).host = s.host := rfl
@[simp] theorem setLength_hostData (s : State) (n : Word) (k : BitVec 2) : (s.setLength n k).hostData = s.hostData := rfl
@[simp] theorem setLength_freeReads (s : State) (n : Word) (k : BitVec 2) : (s.setLength n k).freeReads = s.freeReads := rfl
@[simp] theorem setLength_begun (s : State) (n : Word) (k : BitVec 2) : (s.setLength n k).begun = s.begun := rfl

/-! ## setKind -/

@[simp] theorem setKind_params (s : State) (k : BitVec 2) : (s.setKind k).params = s.params := rfl
@[simp] theorem setKind_rp (s : State) (k : BitVec 2) : (s.setKind k).rp = s.rp := rfl
@[simp] theorem setKind_wp (s : State) (k : BitVec 2) : (s.setKind k).wp = s.wp := rfl
@[simp] theorem setKind_sr (s : State) (k : BitVec 2) : (s.setKind k).sr = s.sr := rfl
@[simp] theorem setKind_wtop (s : State) (k : BitVec 2) : (s.setKind k).wtop = s.wtop := rfl
@[simp] theorem setKind_cnt (s : State) (k : BitVec 2) : (s.setKind k).cnt = s.cnt := rfl
@[simp] theorem setKind_len (s : State) (k : BitVec 2) : (s.setKind k).len = s.len := rfl
@[simp] theorem setKind_kind (s : State) (k : BitVec 2) : (s.setKind k).kind = k := rfl
@[simp] theorem setKind_off (s : State) (k : BitVec 2) : (s.setKind k).off = s.off := rfl
@[simp] theorem setKind_nlit (s : State) (k : BitVec 2) : (s.setKind k).nlit = s.nlit := rfl
@[simp] theorem setKind_phase (s : State) (k : BitVec 2) : (s.setKind k).phase = s.phase := rfl
@[simp] theorem setKind_tokenField (s : State) (k : BitVec 2) : (s.setKind k).tokenField = s.tokenField := rfl
@[simp] theorem setKind_verify (s : State) (k : BitVec 2) : (s.setKind k).verify = s.verify := rfl
@[simp] theorem setKind_verifyEn (s : State) (k : BitVec 2) : (s.setKind k).verifyEn = s.verifyEn := rfl
@[simp] theorem setKind_irqEn (s : State) (k : BitVec 2) : (s.setKind k).irqEn = s.irqEn := rfl
@[simp] theorem setKind_faultCause (s : State) (k : BitVec 2) : (s.setKind k).faultCause = s.faultCause := rfl
@[simp] theorem setKind_bufLen (s : State) (k : BitVec 2) : (s.setKind k).bufLen = s.bufLen := rfl
@[simp] theorem setKind_prefixLen (s : State) (k : BitVec 2) : (s.setKind k).prefixLen = s.prefixLen := rfl
@[simp] theorem setKind_pmode (s : State) (k : BitVec 2) : (s.setKind k).pmode = s.pmode := rfl
@[simp] theorem setKind_mmPos (s : State) (k : BitVec 2) : (s.setKind k).mmPos = s.mmPos := rfl
@[simp] theorem setKind_mmData (s : State) (k : BitVec 2) : (s.setKind k).mmData = s.mmData := rfl
@[simp] theorem setKind_buf (s : State) (k : BitVec 2) : (s.setKind k).buf = s.buf := rfl
@[simp] theorem setKind_exp (s : State) (k : BitVec 2) : (s.setKind k).exp = s.exp := rfl
@[simp] theorem setKind_expLen (s : State) (k : BitVec 2) : (s.setKind k).expLen = s.expLen := rfl
@[simp] theorem setKind_host (s : State) (k : BitVec 2) : (s.setKind k).host = s.host := rfl
@[simp] theorem setKind_hostData (s : State) (k : BitVec 2) : (s.setKind k).hostData = s.hostData := rfl
@[simp] theorem setKind_freeReads (s : State) (k : BitVec 2) : (s.setKind k).freeReads = s.freeReads := rfl
@[simp] theorem setKind_begun (s : State) (k : BitVec 2) : (s.setKind k).begun = s.begun := rfl

/-! ## setOffset -/

@[simp] theorem setOffset_params (s : State) (n : Word) : (s.setOffset n).params = s.params := rfl
@[simp] theorem setOffset_rp (s : State) (n : Word) : (s.setOffset n).rp = s.rp := rfl
@[simp] theorem setOffset_wp (s : State) (n : Word) : (s.setOffset n).wp = s.wp := rfl
@[simp] theorem setOffset_sr (s : State) (n : Word) : (s.setOffset n).sr = s.sr := rfl
@[simp] theorem setOffset_wtop (s : State) (n : Word) : (s.setOffset n).wtop = s.wtop := rfl
@[simp] theorem setOffset_cnt (s : State) (n : Word) : (s.setOffset n).cnt = s.cnt := rfl
@[simp] theorem setOffset_len (s : State) (n : Word) : (s.setOffset n).len = s.len := rfl
@[simp] theorem setOffset_kind (s : State) (n : Word) : (s.setOffset n).kind = s.kind := rfl
@[simp] theorem setOffset_off (s : State) (n : Word) : (s.setOffset n).off = n := rfl
@[simp] theorem setOffset_nlit (s : State) (n : Word) : (s.setOffset n).nlit = s.nlit := rfl
@[simp] theorem setOffset_phase (s : State) (n : Word) : (s.setOffset n).phase = s.phase := rfl
@[simp] theorem setOffset_tokenField (s : State) (n : Word) : (s.setOffset n).tokenField = .run := rfl
@[simp] theorem setOffset_verify (s : State) (n : Word) : (s.setOffset n).verify = s.verify := rfl
@[simp] theorem setOffset_verifyEn (s : State) (n : Word) : (s.setOffset n).verifyEn = s.verifyEn := rfl
@[simp] theorem setOffset_irqEn (s : State) (n : Word) : (s.setOffset n).irqEn = s.irqEn := rfl
@[simp] theorem setOffset_faultCause (s : State) (n : Word) : (s.setOffset n).faultCause = s.faultCause := rfl
@[simp] theorem setOffset_bufLen (s : State) (n : Word) : (s.setOffset n).bufLen = s.bufLen := rfl
@[simp] theorem setOffset_prefixLen (s : State) (n : Word) : (s.setOffset n).prefixLen = s.prefixLen := rfl
@[simp] theorem setOffset_pmode (s : State) (n : Word) : (s.setOffset n).pmode = s.pmode := rfl
@[simp] theorem setOffset_mmPos (s : State) (n : Word) : (s.setOffset n).mmPos = s.mmPos := rfl
@[simp] theorem setOffset_mmData (s : State) (n : Word) : (s.setOffset n).mmData = s.mmData := rfl
@[simp] theorem setOffset_buf (s : State) (n : Word) : (s.setOffset n).buf = s.buf := rfl
@[simp] theorem setOffset_exp (s : State) (n : Word) : (s.setOffset n).exp = s.exp := rfl
@[simp] theorem setOffset_expLen (s : State) (n : Word) : (s.setOffset n).expLen = s.expLen := rfl
@[simp] theorem setOffset_host (s : State) (n : Word) : (s.setOffset n).host = s.host := rfl
@[simp] theorem setOffset_hostData (s : State) (n : Word) : (s.setOffset n).hostData = s.hostData := rfl
@[simp] theorem setOffset_freeReads (s : State) (n : Word) : (s.setOffset n).freeReads = s.freeReads := rfl
@[simp] theorem setOffset_begun (s : State) (n : Word) : (s.setOffset n).begun = s.begun := rfl

/-! ## setRun -/

@[simp] theorem setRun_params (s : State) (n : Word) : (s.setRun n).params = s.params := rfl
@[simp] theorem setRun_rp (s : State) (n : Word) : (s.setRun n).rp = s.rp := rfl
@[simp] theorem setRun_wp (s : State) (n : Word) : (s.setRun n).wp = s.wp := rfl
@[simp] theorem setRun_sr (s : State) (n : Word) : (s.setRun n).sr = s.sr := rfl
@[simp] theorem setRun_wtop (s : State) (n : Word) : (s.setRun n).wtop = s.wtop := rfl
@[simp] theorem setRun_cnt (s : State) (n : Word) : (s.setRun n).cnt = s.len := rfl
@[simp] theorem setRun_len (s : State) (n : Word) : (s.setRun n).len = s.len := rfl
@[simp] theorem setRun_kind (s : State) (n : Word) : (s.setRun n).kind = s.kind := rfl
@[simp] theorem setRun_off (s : State) (n : Word) : (s.setRun n).off = s.off := rfl
@[simp] theorem setRun_nlit (s : State) (n : Word) : (s.setRun n).nlit = n := rfl
@[simp] theorem setRun_phase (s : State) (n : Word) : (s.setRun n).phase = .copy := rfl
@[simp] theorem setRun_tokenField (s : State) (n : Word) : (s.setRun n).tokenField = .type := rfl
@[simp] theorem setRun_verify (s : State) (n : Word) : (s.setRun n).verify = s.verify := rfl
@[simp] theorem setRun_verifyEn (s : State) (n : Word) : (s.setRun n).verifyEn = s.verifyEn := rfl
@[simp] theorem setRun_irqEn (s : State) (n : Word) : (s.setRun n).irqEn = s.irqEn := rfl
@[simp] theorem setRun_faultCause (s : State) (n : Word) : (s.setRun n).faultCause = s.faultCause := rfl
@[simp] theorem setRun_bufLen (s : State) (n : Word) : (s.setRun n).bufLen = s.bufLen := rfl
@[simp] theorem setRun_prefixLen (s : State) (n : Word) : (s.setRun n).prefixLen = s.prefixLen := rfl
@[simp] theorem setRun_pmode (s : State) (n : Word) : (s.setRun n).pmode = s.pmode := rfl
@[simp] theorem setRun_mmPos (s : State) (n : Word) : (s.setRun n).mmPos = s.mmPos := rfl
@[simp] theorem setRun_mmData (s : State) (n : Word) : (s.setRun n).mmData = s.mmData := rfl
@[simp] theorem setRun_buf (s : State) (n : Word) : (s.setRun n).buf = s.buf := rfl
@[simp] theorem setRun_exp (s : State) (n : Word) : (s.setRun n).exp = s.exp := rfl
@[simp] theorem setRun_expLen (s : State) (n : Word) : (s.setRun n).expLen = s.expLen := rfl
@[simp] theorem setRun_host (s : State) (n : Word) : (s.setRun n).host = s.host := rfl
@[simp] theorem setRun_hostData (s : State) (n : Word) : (s.setRun n).hostData = s.hostData := rfl
@[simp] theorem setRun_freeReads (s : State) (n : Word) : (s.setRun n).freeReads = s.freeReads := rfl
@[simp] theorem setRun_begun (s : State) (n : Word) : (s.setRun n).begun = s.begun := rfl

/-! ## setMismatch -/

@[simp] theorem setMismatch_params (s : State) (a : Word) (v e : Byte) : (s.setMismatch a v e).params = s.params := rfl
@[simp] theorem setMismatch_rp (s : State) (a : Word) (v e : Byte) : (s.setMismatch a v e).rp = s.rp := rfl
@[simp] theorem setMismatch_wp (s : State) (a : Word) (v e : Byte) : (s.setMismatch a v e).wp = s.wp := rfl
@[simp] theorem setMismatch_sr (s : State) (a : Word) (v e : Byte) : (s.setMismatch a v e).sr = s.sr := rfl
@[simp] theorem setMismatch_wtop (s : State) (a : Word) (v e : Byte) : (s.setMismatch a v e).wtop = s.wtop := rfl
@[simp] theorem setMismatch_cnt (s : State) (a : Word) (v e : Byte) : (s.setMismatch a v e).cnt = s.cnt := rfl
@[simp] theorem setMismatch_len (s : State) (a : Word) (v e : Byte) : (s.setMismatch a v e).len = s.len := rfl
@[simp] theorem setMismatch_kind (s : State) (a : Word) (v e : Byte) : (s.setMismatch a v e).kind = s.kind := rfl
@[simp] theorem setMismatch_off (s : State) (a : Word) (v e : Byte) : (s.setMismatch a v e).off = s.off := rfl
@[simp] theorem setMismatch_nlit (s : State) (a : Word) (v e : Byte) : (s.setMismatch a v e).nlit = s.nlit := rfl
@[simp] theorem setMismatch_phase (s : State) (a : Word) (v e : Byte) : (s.setMismatch a v e).phase = s.phase := rfl
@[simp] theorem setMismatch_tokenField (s : State) (a : Word) (v e : Byte) : (s.setMismatch a v e).tokenField = s.tokenField := rfl
@[simp] theorem setMismatch_verify (s : State) (a : Word) (v e : Byte) : (s.setMismatch a v e).verify = s.verify := rfl
@[simp] theorem setMismatch_verifyEn (s : State) (a : Word) (v e : Byte) : (s.setMismatch a v e).verifyEn = s.verifyEn := rfl
@[simp] theorem setMismatch_irqEn (s : State) (a : Word) (v e : Byte) : (s.setMismatch a v e).irqEn = s.irqEn := rfl
@[simp] theorem setMismatch_faultCause (s : State) (a : Word) (v e : Byte) : (s.setMismatch a v e).faultCause = s.faultCause := rfl
@[simp] theorem setMismatch_bufLen (s : State) (a : Word) (v e : Byte) : (s.setMismatch a v e).bufLen = s.bufLen := rfl
@[simp] theorem setMismatch_prefixLen (s : State) (a : Word) (v e : Byte) : (s.setMismatch a v e).prefixLen = s.prefixLen := rfl
@[simp] theorem setMismatch_pmode (s : State) (a : Word) (v e : Byte) : (s.setMismatch a v e).pmode = s.pmode := rfl
@[simp] theorem setMismatch_mmPos (s : State) (a : Word) (v e : Byte) : (s.setMismatch a v e).mmPos = a := rfl
@[simp] theorem setMismatch_mmData (s : State) (a : Word) (v e : Byte) : (s.setMismatch a v e).mmData = v ++ e := rfl
@[simp] theorem setMismatch_buf (s : State) (a : Word) (v e : Byte) : (s.setMismatch a v e).buf = s.buf := rfl
@[simp] theorem setMismatch_exp (s : State) (a : Word) (v e : Byte) : (s.setMismatch a v e).exp = s.exp := rfl
@[simp] theorem setMismatch_expLen (s : State) (a : Word) (v e : Byte) : (s.setMismatch a v e).expLen = s.expLen := rfl
@[simp] theorem setMismatch_host (s : State) (a : Word) (v e : Byte) : (s.setMismatch a v e).host = s.host := rfl
@[simp] theorem setMismatch_hostData (s : State) (a : Word) (v e : Byte) : (s.setMismatch a v e).hostData = s.hostData := rfl
@[simp] theorem setMismatch_freeReads (s : State) (a : Word) (v e : Byte) : (s.setMismatch a v e).freeReads = s.freeReads := rfl
@[simp] theorem setMismatch_begun (s : State) (a : Word) (v e : Byte) : (s.setMismatch a v e).begun = s.begun := rfl

/-! ## faultEntry -/

@[simp] theorem faultEntry_params (s : State) (c : Cause) : (s.faultEntry c).params = s.params := rfl
@[simp] theorem faultEntry_rp (s : State) (c : Cause) : (s.faultEntry c).rp = s.rp := rfl
@[simp] theorem faultEntry_wp (s : State) (c : Cause) : (s.faultEntry c).wp = s.wp := rfl
@[simp] theorem faultEntry_sr (s : State) (c : Cause) : (s.faultEntry c).sr = s.sr := rfl
@[simp] theorem faultEntry_wtop (s : State) (c : Cause) : (s.faultEntry c).wtop = s.wtop := rfl
@[simp] theorem faultEntry_cnt (s : State) (c : Cause) : (s.faultEntry c).cnt = s.cnt := rfl
@[simp] theorem faultEntry_len (s : State) (c : Cause) : (s.faultEntry c).len = s.len := rfl
@[simp] theorem faultEntry_kind (s : State) (c : Cause) : (s.faultEntry c).kind = s.kind := rfl
@[simp] theorem faultEntry_off (s : State) (c : Cause) : (s.faultEntry c).off = s.off := rfl
@[simp] theorem faultEntry_nlit (s : State) (c : Cause) : (s.faultEntry c).nlit = s.nlit := rfl
@[simp] theorem faultEntry_phase (s : State) (c : Cause) : (s.faultEntry c).phase = .fault := rfl
@[simp] theorem faultEntry_tokenField (s : State) (c : Cause) : (s.faultEntry c).tokenField = s.tokenField := rfl
@[simp] theorem faultEntry_verify (s : State) (c : Cause) : (s.faultEntry c).verify = s.verify := rfl
@[simp] theorem faultEntry_verifyEn (s : State) (c : Cause) : (s.faultEntry c).verifyEn = s.verifyEn := rfl
@[simp] theorem faultEntry_irqEn (s : State) (c : Cause) : (s.faultEntry c).irqEn = s.irqEn := rfl
@[simp] theorem faultEntry_faultCause (s : State) (c : Cause) : (s.faultEntry c).faultCause = c.code := rfl
@[simp] theorem faultEntry_bufLen (s : State) (c : Cause) : (s.faultEntry c).bufLen = s.bufLen := rfl
@[simp] theorem faultEntry_prefixLen (s : State) (c : Cause) : (s.faultEntry c).prefixLen = s.prefixLen := rfl
@[simp] theorem faultEntry_pmode (s : State) (c : Cause) : (s.faultEntry c).pmode = s.pmode := rfl
@[simp] theorem faultEntry_mmPos (s : State) (c : Cause) : (s.faultEntry c).mmPos = s.mmPos := rfl
@[simp] theorem faultEntry_mmData (s : State) (c : Cause) : (s.faultEntry c).mmData = s.mmData := rfl
@[simp] theorem faultEntry_buf (s : State) (c : Cause) : (s.faultEntry c).buf = s.buf := rfl
@[simp] theorem faultEntry_exp (s : State) (c : Cause) : (s.faultEntry c).exp = s.exp := rfl
@[simp] theorem faultEntry_expLen (s : State) (c : Cause) : (s.faultEntry c).expLen = s.expLen := rfl
@[simp] theorem faultEntry_host (s : State) (c : Cause) : (s.faultEntry c).host = s.host := rfl
@[simp] theorem faultEntry_hostData (s : State) (c : Cause) : (s.faultEntry c).hostData = s.hostData := rfl
@[simp] theorem faultEntry_freeReads (s : State) (c : Cause) : (s.faultEntry c).freeReads = s.freeReads := rfl
@[simp] theorem faultEntry_begun (s : State) (c : Cause) : (s.faultEntry c).begun = s.begun := rfl

/-! ## setCtrl -/

@[simp] theorem setCtrl_params (s : State) (v q : Bool) : (s.setCtrl v q).params = s.params := rfl
@[simp] theorem setCtrl_rp (s : State) (v q : Bool) : (s.setCtrl v q).rp = s.rp := rfl
@[simp] theorem setCtrl_wp (s : State) (v q : Bool) : (s.setCtrl v q).wp = s.wp := rfl
@[simp] theorem setCtrl_sr (s : State) (v q : Bool) : (s.setCtrl v q).sr = s.sr := rfl
@[simp] theorem setCtrl_wtop (s : State) (v q : Bool) : (s.setCtrl v q).wtop = s.wtop := rfl
@[simp] theorem setCtrl_cnt (s : State) (v q : Bool) : (s.setCtrl v q).cnt = s.cnt := rfl
@[simp] theorem setCtrl_len (s : State) (v q : Bool) : (s.setCtrl v q).len = s.len := rfl
@[simp] theorem setCtrl_kind (s : State) (v q : Bool) : (s.setCtrl v q).kind = s.kind := rfl
@[simp] theorem setCtrl_off (s : State) (v q : Bool) : (s.setCtrl v q).off = s.off := rfl
@[simp] theorem setCtrl_nlit (s : State) (v q : Bool) : (s.setCtrl v q).nlit = s.nlit := rfl
@[simp] theorem setCtrl_phase (s : State) (v q : Bool) : (s.setCtrl v q).phase = s.phase := rfl
@[simp] theorem setCtrl_tokenField (s : State) (v q : Bool) : (s.setCtrl v q).tokenField = s.tokenField := rfl
@[simp] theorem setCtrl_verify (s : State) (v q : Bool) : (s.setCtrl v q).verify = s.verify := rfl
@[simp] theorem setCtrl_verifyEn (s : State) (v q : Bool) : (s.setCtrl v q).verifyEn = (v && s.params.hasVerify) := rfl
@[simp] theorem setCtrl_irqEn (s : State) (v q : Bool) : (s.setCtrl v q).irqEn = q := rfl
@[simp] theorem setCtrl_faultCause (s : State) (v q : Bool) : (s.setCtrl v q).faultCause = s.faultCause := rfl
@[simp] theorem setCtrl_bufLen (s : State) (v q : Bool) : (s.setCtrl v q).bufLen = s.bufLen := rfl
@[simp] theorem setCtrl_prefixLen (s : State) (v q : Bool) : (s.setCtrl v q).prefixLen = s.prefixLen := rfl
@[simp] theorem setCtrl_pmode (s : State) (v q : Bool) : (s.setCtrl v q).pmode = s.pmode := rfl
@[simp] theorem setCtrl_mmPos (s : State) (v q : Bool) : (s.setCtrl v q).mmPos = s.mmPos := rfl
@[simp] theorem setCtrl_mmData (s : State) (v q : Bool) : (s.setCtrl v q).mmData = s.mmData := rfl
@[simp] theorem setCtrl_buf (s : State) (v q : Bool) : (s.setCtrl v q).buf = s.buf := rfl
@[simp] theorem setCtrl_exp (s : State) (v q : Bool) : (s.setCtrl v q).exp = s.exp := rfl
@[simp] theorem setCtrl_expLen (s : State) (v q : Bool) : (s.setCtrl v q).expLen = s.expLen := rfl
@[simp] theorem setCtrl_host (s : State) (v q : Bool) : (s.setCtrl v q).host = s.host := rfl
@[simp] theorem setCtrl_hostData (s : State) (v q : Bool) : (s.setCtrl v q).hostData = s.hostData := rfl
@[simp] theorem setCtrl_freeReads (s : State) (v q : Bool) : (s.setCtrl v q).freeReads = s.freeReads := rfl
@[simp] theorem setCtrl_begun (s : State) (v q : Bool) : (s.setCtrl v q).begun = s.begun := rfl

/-! ## armed -/

@[simp] theorem armed_params (s : State) : s.armed.params = s.params := rfl
@[simp] theorem armed_rp (s : State) : s.armed.rp = s.rp := rfl
@[simp] theorem armed_wp (s : State) : s.armed.wp = s.wp := rfl
@[simp] theorem armed_sr (s : State) : s.armed.sr = s.sr := rfl
@[simp] theorem armed_wtop (s : State) : s.armed.wtop = s.wtop := rfl
@[simp] theorem armed_cnt (s : State) : s.armed.cnt = s.cnt := rfl
@[simp] theorem armed_len (s : State) : s.armed.len = s.len := rfl
@[simp] theorem armed_kind (s : State) : s.armed.kind = s.kind := rfl
@[simp] theorem armed_off (s : State) : s.armed.off = s.off := rfl
@[simp] theorem armed_nlit (s : State) : s.armed.nlit = s.nlit := rfl
@[simp] theorem armed_phase (s : State) : s.armed.phase = s.phase := rfl
@[simp] theorem armed_tokenField (s : State) : s.armed.tokenField = s.tokenField := rfl
@[simp] theorem armed_verify (s : State) : s.armed.verify = s.verifyEnabled := rfl
@[simp] theorem armed_verifyEn (s : State) : s.armed.verifyEn = s.verifyEn := rfl
@[simp] theorem armed_irqEn (s : State) : s.armed.irqEn = s.irqEn := rfl
@[simp] theorem armed_faultCause (s : State) : s.armed.faultCause = 0 := rfl
@[simp] theorem armed_bufLen (s : State) : s.armed.bufLen = s.bufLen := rfl
@[simp] theorem armed_prefixLen (s : State) : s.armed.prefixLen = s.prefixLen := rfl
@[simp] theorem armed_pmode (s : State) : s.armed.pmode = s.pmode := rfl
@[simp] theorem armed_mmPos (s : State) : s.armed.mmPos = 0 := rfl
@[simp] theorem armed_mmData (s : State) : s.armed.mmData = 0 := rfl
@[simp] theorem armed_buf (s : State) : s.armed.buf = s.buf := rfl
@[simp] theorem armed_exp (s : State) : s.armed.exp = s.exp := rfl
@[simp] theorem armed_expLen (s : State) : s.armed.expLen = s.expLen := rfl
@[simp] theorem armed_host (s : State) : s.armed.host = s.host := rfl
@[simp] theorem armed_hostData (s : State) : s.armed.hostData = s.hostData := rfl
@[simp] theorem armed_freeReads (s : State) : s.armed.freeReads = s.freeReads := rfl
@[simp] theorem armed_begun (s : State) : s.armed.begun = s.begun := rfl

/-! ## launched -/

@[simp] theorem launched_params (s : State) : s.launched.params = s.params := rfl
@[simp] theorem launched_rp (s : State) : s.launched.rp = s.rp := rfl
@[simp] theorem launched_wp (s : State) : s.launched.wp = s.wp := rfl
@[simp] theorem launched_sr (s : State) : s.launched.sr = s.sr := rfl
@[simp] theorem launched_wtop (s : State) : s.launched.wtop = s.wp := rfl
@[simp] theorem launched_cnt (s : State) : s.launched.cnt = s.prefixLen := rfl
@[simp] theorem launched_len (s : State) : s.launched.len = s.len := rfl
@[simp] theorem launched_kind (s : State) : s.launched.kind = s.kind := rfl
@[simp] theorem launched_off (s : State) : s.launched.off = s.off := rfl
@[simp] theorem launched_nlit (s : State) : s.launched.nlit = s.nlit := rfl
@[simp] theorem launched_phase (s : State) : s.launched.phase = .prefixRun := rfl
@[simp] theorem launched_tokenField (s : State) : s.launched.tokenField = .type := rfl
@[simp] theorem launched_verify (s : State) : s.launched.verify = s.verify := rfl
@[simp] theorem launched_verifyEn (s : State) : s.launched.verifyEn = s.verifyEn := rfl
@[simp] theorem launched_irqEn (s : State) : s.launched.irqEn = s.irqEn := rfl
@[simp] theorem launched_faultCause (s : State) : s.launched.faultCause = s.faultCause := rfl
@[simp] theorem launched_bufLen (s : State) : s.launched.bufLen = s.bufLen := rfl
@[simp] theorem launched_prefixLen (s : State) : s.launched.prefixLen = s.prefixLen := rfl
@[simp] theorem launched_pmode (s : State) : s.launched.pmode = s.pmode := rfl
@[simp] theorem launched_mmPos (s : State) : s.launched.mmPos = s.mmPos := rfl
@[simp] theorem launched_mmData (s : State) : s.launched.mmData = s.mmData := rfl
@[simp] theorem launched_buf (s : State) : s.launched.buf = s.buf := rfl
@[simp] theorem launched_exp (s : State) : s.launched.exp = s.exp := rfl
@[simp] theorem launched_expLen (s : State) : s.launched.expLen = s.expLen := rfl
@[simp] theorem launched_host (s : State) : s.launched.host = s.host := rfl
@[simp] theorem launched_hostData (s : State) : s.launched.hostData = s.hostData := rfl
@[simp] theorem launched_freeReads (s : State) : s.launched.freeReads = s.freeReads := rfl
@[simp] theorem launched_begun (s : State) : s.launched.begun = s.snapshot := rfl

end Sys2Proof.Machine
end

