-- ==== Sys2Proof/Laws/Ops.lean ====
section
/-!
SUPPORT. For each shared operation, once, everything it can do: what holds if it answers a next state, and why it can stop.
-/

namespace Sys2Proof.Machine

/-! ## Small facts -/

/-- A 32-bit value other than 0 less one. -/
theorem toNat_pred {x : Word} (h : x ≠ 0) : (x - 1).toNat = x.toNat - 1 := by
  have hx : x.toNat ≠ 0 := fun h0 => h (BitVec.eq_of_toNat_eq (by simpa using h0))
  have hlt := x.isLt
  rw [BitVec.toNat_sub]
  simp
  omega

/-- A 32-bit value other than 0 is positive. -/
theorem toNat_pos {x : Word} (h : x ≠ 0) : 0 < x.toNat :=
  Nat.pos_of_ne_zero fun h0 => h (BitVec.eq_of_toNat_eq (by simpa using h0))

/-! ## The bitstream cursor -/

theorem bufLoad_ok {s : State} {a : Nat} {b : Byte} (h : bufLoad s a = .ok b) : a < s.bufLen.toNat ∧ b = s.bufByte a := by
  unfold bufLoad at h
  split at h
  · exact ⟨‹_›, by simpa using h.symm⟩
  · simp at h

theorem bufLoad_of_lt {s : State} {a : Nat} (h : a < s.bufLen.toNat) : bufLoad s a = .ok (s.bufByte a) := if_pos h

/-- What `readByte()` does when it completes. -/
theorem readByte_ok {s t : State} {b : Byte} (h : readByte s = .ok (b, t)) :
    s.rp ≠ 0 ∧ s.rp.toNat ≤ s.bufLen.toNat ∧ b = s.bufByte (s.rp.toNat - 1) ∧ t = s.setCursor (s.rp - 1) s.sr := by
  unfold readByte at h
  split at h
  · simp at h
  · rename_i h0
    split at h
    · simp at h
    · rename_i hb
      obtain ⟨hlt, rfl⟩ := bufLoad_ok hb
      rw [toNat_pred h0] at hlt
      simp only [Except.ok.injEq, Prod.mk.injEq] at h
      refine ⟨h0, by omega, ?_, h.2.symm⟩
      rw [← h.1, toNat_pred h0]

/-- When `readByte()` completes. -/
theorem readByte_of {s : State} (h0 : s.rp ≠ 0) (hle : s.rp.toNat ≤ s.bufLen.toNat) :
    readByte s = .ok (s.bufByte (s.rp.toNat - 1), s.setCursor (s.rp - 1) s.sr) := by
  have hlt : (s.rp - 1).toNat < s.bufLen.toNat := by
    rw [toNat_pred h0]
    have := toNat_pos h0
    omega
  rw [readByte, if_neg h0, bufLoad_of_lt hlt, toNat_pred h0]

/-- Why `readByte()` stops: the stream has run out, or the byte does not exist. -/
theorem readByte_error {s : State} {e : Stop} (h : readByte s = .error e) :
    (s.rp = 0 ∧ e = .raise .readUnderflow s) ∨ (s.bufLen.toNat < s.rp.toNat ∧ e = .halt .bufAddress) := by
  unfold readByte at h
  split at h
  · exact .inl ⟨‹_›, by simpa using h.symm⟩
  · rename_i h0
    right
    unfold bufLoad at h
    split at h
    · rename_i hb
      split at hb
      · simp at hb
      · rename_i hlt
        rw [toNat_pred h0] at hlt
        have := toNat_pos h0
        exact ⟨by omega, by simp_all⟩
    · simp at h

/-- What `readBit()` does when it completes: it reloads (spec/40 R77) or shifts (R78). -/
theorem readBit_ok {s t : State} {b : Bool} (h : readBit s = .ok (b, t)) :
    (s.sr = sentinel ∧ s.rp ≠ 0 ∧ s.rp.toNat ≤ s.bufLen.toNat ∧ b = (s.bufByte (s.rp.toNat - 1)).getLsbD 7 ∧
      t = s.setCursor (s.rp - 1) (((s.bufByte (s.rp.toNat - 1) &&& 0x7F) <<< 1) ||| 1)) ∨
    (s.sr ≠ sentinel ∧ b = s.sr.getLsbD 7 ∧ t = s.setCursor s.rp ((s.sr &&& 0x7F) <<< 1)) := by
  unfold readBit at h
  split at h
  · rename_i hs
    left
    split at h
    · simp at h
    · rename_i hb
      obtain ⟨h0, hle, rfl, rfl⟩ := readByte_ok hb
      simp only [Except.ok.injEq, Prod.mk.injEq] at h
      exact ⟨hs, h0, hle, h.1.symm, h.2.symm⟩
  · simp only [Except.ok.injEq, Prod.mk.injEq] at h
    exact .inr ⟨‹_›, h.1.symm, h.2.symm⟩

/-- Why `readBit()` stops: a reload that finds no byte; then nothing has changed (spec/40 R77). -/
theorem readBit_error {s : State} {e : Stop} (h : readBit s = .error e) :
    s.sr = sentinel ∧
      ((s.rp = 0 ∧ e = .raise .readUnderflow s) ∨ (s.bufLen.toNat < s.rp.toNat ∧ e = .halt .bufAddress)) := by
  unfold readBit at h
  split at h
  · refine ⟨‹_›, ?_⟩
    split at h
    · rename_i he
      simp only [Except.error.injEq] at h
      exact h ▸ readByte_error he
    · simp at h
  · simp at h

/-- `readBit()` changes the fetch pointer and nothing else. -/
theorem readBit_cursor {s t : State} {b : Bool} (h : readBit s = .ok (b, t)) : t = s.setCursor t.rp t.sr := by
  rcases readBit_ok h with ⟨-, -, -, -, rfl⟩ | ⟨-, -, rfl⟩ <;> rfl

/-! ## The output buffer writer -/

/-- What `writeByte(v)` does when it completes (spec/43 R111, R112). -/
theorem writeByte_ok {v : Byte} {s t : State} (h : writeByte v s = .ok t) :
    s.wp ≠ 0 ∧ s.wp.toNat ≤ s.bufLen.toNat ∧ t = s.putByte (s.wp - 1) v ∧
      (s.verifying = true → s.wp.toNat ≤ s.expLen.toNat ∧ s.expByte (s.wp.toNat - 1) = v) := by
  unfold writeByte at h
  split at h
  · simp at h
  · rename_i h0
    have hp := toNat_pos h0
    split at h
    · rename_i hlt
      have hlt' : s.wp.toNat ≤ s.bufLen.toNat := by
        have : (s.wp - 1).toNat < s.bufLen.toNat := hlt
        rw [toNat_pred h0] at this
        omega
      split at h
      · rename_i hv
        unfold verifyCompare at h
        split at h
        · rename_i he
          have he' : (s.wp - 1).toNat < s.expLen.toNat := he
          rw [toNat_pred h0] at he'
          split at h
          · rename_i hb
            refine ⟨h0, hlt', by simpa using h.symm, fun _ => ⟨by omega, ?_⟩⟩
            rw [← toNat_pred h0]
            exact hb
          · simp at h
        · simp at h
      · rename_i hv
        exact ⟨h0, hlt', by simpa using h.symm, fun hv' => absurd hv' hv⟩
    · simp at h

/-- Why `writeByte(v)` stops: no room, a byte that does not exist, or a mismatch, which comes after the write. -/
theorem writeByte_error {v : Byte} {s : State} {e : Stop} (h : writeByte v s = .error e) :
    (s.wp = 0 ∧ e = .raise .writeUnderflow s) ∨
    (s.wp ≠ 0 ∧ s.bufLen.toNat < s.wp.toNat ∧ e = .halt .bufAddress) ∨
    (s.wp ≠ 0 ∧ s.verifying = true ∧ s.expLen.toNat < s.wp.toNat ∧ e = .halt .expAddress) ∨
    (s.wp ≠ 0 ∧ s.wp.toNat ≤ s.bufLen.toNat ∧ s.verifying = true ∧ s.expByte (s.wp.toNat - 1) ≠ v ∧
      e = .raise .integrityMismatch
        ((s.putByte (s.wp - 1) v).setMismatch (s.wp - 1) v (s.expByte (s.wp.toNat - 1)))) := by
  unfold writeByte at h
  split at h
  · exact .inl ⟨‹_›, by simpa using h.symm⟩
  · rename_i h0
    right
    have hp := toNat_pos h0
    split at h
    · rename_i hlt
      have hlt' : (s.wp - 1).toNat < s.bufLen.toNat := hlt
      rw [toNat_pred h0] at hlt'
      right
      split at h
      · rename_i hv
        unfold verifyCompare at h
        split at h
        · split at h
          · simp at h
          · rename_i hb
            right
            have hb' : s.expByte (s.wp - 1).toNat ≠ v := hb
            rw [toNat_pred h0] at hb'
            refine ⟨h0, by omega, hv, hb', ?_⟩
            simp only [Except.error.injEq] at h
            rw [← h, ← toNat_pred h0]
            rfl
        · rename_i he
          left
          have he' : ¬(s.wp - 1).toNat < s.expLen.toNat := he
          rw [toNat_pred h0] at he'
          exact ⟨h0, hv, by omega, by simpa using h.symm⟩
      · simp at h
    · rename_i hlt
      have hlt' : ¬(s.wp - 1).toNat < s.bufLen.toNat := hlt
      rw [toNat_pred h0] at hlt'
      exact .inl ⟨h0, by omega, by simpa using h.symm⟩

/-- What `backrefStep` does when it completes: a byte of the written output lands below it (spec/43 R115). -/
theorem backrefStep_ok {s t : State} (h : backrefStep s = .ok t) :
    s.off ≠ 0 ∧ s.refAddr < s.wtop.toNat ∧ s.refAddr < s.bufLen.toNat ∧ writeByte (s.bufByte s.refAddr) s = .ok t := by
  unfold backrefStep at h
  split at h
  · simp at h
  · split at h
    · simp at h
    · split at h
      · simp at h
      · split at h
        · simp at h
        · rename_i h0 hr _ _ hb
          obtain ⟨hlt, rfl⟩ := bufLoad_ok hb
          exact ⟨h0, by omega, hlt, h⟩

/-- Why `backrefStep` stops, in the order of its checks (spec/43 R115). -/
theorem backrefStep_error {s : State} {e : Stop} (h : backrefStep s = .error e) :
    (s.wp = 0 ∧ e = .raise .writeUnderflow s) ∨
    (s.wp ≠ 0 ∧ s.off = 0 ∧ e = .raise .backrefZero s) ∨
    (s.wp ≠ 0 ∧ s.off ≠ 0 ∧ s.wtop.toNat ≤ s.refAddr ∧ e = .raise .backrefRange s) ∨
    (s.wp ≠ 0 ∧ s.off ≠ 0 ∧ s.refAddr < s.wtop.toNat ∧ s.bufLen.toNat ≤ s.refAddr ∧ e = .halt .bufAddress) ∨
    (s.wp ≠ 0 ∧ s.off ≠ 0 ∧ s.refAddr < s.wtop.toNat ∧ s.refAddr < s.bufLen.toNat ∧
      writeByte (s.bufByte s.refAddr) s = .error e) := by
  unfold backrefStep at h
  split at h
  · exact .inl ⟨‹_›, by simpa using h.symm⟩
  · split at h
    · exact .inr (.inl ⟨‹_›, ‹_›, by simpa using h.symm⟩)
    · split at h
      · exact .inr (.inr (.inl ⟨‹_›, ‹_›, ‹_›, by simpa using h.symm⟩))
      · rename_i hw ho hr
        right; right; right
        unfold bufLoad at h
        split at h
        · rename_i hb
          split at hb
          · simp at hb
          · rename_i hlt
            exact .inl ⟨hw, ho, by omega, by omega, by simp_all⟩
        · rename_i hb
          split at hb
          · rename_i hlt
            simp only [Except.ok.injEq] at hb
            exact .inr ⟨hw, ho, by omega, hlt, hb ▸ h⟩
          · simp at hb

/-! ## Outcomes -/

/-- A sequence of primitives ends in a next state: its own, or that of the fault it raised. -/
theorem settle_next {r : Except Stop State} {t : State} (h : settle r = .next t) :
    r = .ok t ∨ ∃ c s, r = .error (.raise c s) ∧ t = s.faultEntry c := by
  cases r with
  | ok s => exact .inl (by simpa [settle] using h)
  | error e =>
    cases e with
    | raise c s => exact .inr ⟨c, s, rfl, by simpa [settle, Stop.outcome] using h.symm⟩
    | halt f => simp [settle, Stop.outcome] at h

/-- A sequence of primitives never ends in a refusal. -/
theorem settle_not_refused {r : Except Stop State} {x : Refusal} : settle r ≠ .refused x := by
  rcases r with e | s
  · cases e <;> simp [settle, Stop.outcome]
  · simp [settle]

theorem countDown_ok {r : Except Stop State} {t : State} (h : countDown r = .ok t) :
    ∃ s, r = .ok s ∧ t = s.setCnt (s.cnt - 1) := by
  cases r with
  | ok s => exact ⟨s, rfl, by simpa [countDown] using h.symm⟩
  | error e => simp [countDown] at h

theorem countDown_error {r : Except Stop State} {e : Stop} (h : countDown r = .error e) : r = .error e := by
  cases r with
  | ok s => simp [countDown] at h
  | error e' => simpa [countDown] using h

/-- START's answers, in the order of its checks (spec/42 R94). -/
theorem beginDecode_next {s t : State} (h : beginDecode s = .next t) :
    (8 < s.pmode.toNat ∧ t = s.faultEntry .badPmode) ∨
    (s.pmode.toNat ≤ 8 ∧ s.positionBad = true ∧ t = s.faultEntry .badPosition) ∨
    (s.pmode.toNat ≤ 8 ∧ s.positionBad = false ∧ s.bufLen.toNat ≤ s.params.maxBuf.toNat ∧
      (s.verifying = true → s.wp.toNat ≤ s.expLen.toNat) ∧ t = s.launched) := by
  unfold beginDecode at h
  split at h
  · exact .inl ⟨‹_›, by simpa using h.symm⟩
  · split at h
    · exact .inr (.inl ⟨by omega, ‹_›, by simpa using h.symm⟩)
    · split at h
      · simp at h
      · split at h
        · simp at h
        · rename_i hp hm he
          refine .inr (.inr ⟨by omega, by simpa using hp, BitVec.not_lt.mp hm, fun hv => ?_, by simpa using h.symm⟩)
          simp only [hv, Bool.and_true, decide_eq_true_eq] at he
          exact BitVec.not_lt.mp he

/-- START's answers. -/
theorem execStart_next {v q : Bool} {s t : State} (h : execStart v q s = .next t) :
    (s.busy = true ∧ t = s) ∨ (s.busy = false ∧ beginDecode (s.setCtrl v q).armed = .next t) := by
  unfold execStart at h
  split at h
  · exact .inl ⟨‹_›, by simpa using h.symm⟩
  · exact .inr ⟨by simpa using ‹¬s.busy = true›, h⟩

/-- A compression-type code always has its effect. -/
theorem chooseType_next (i : Nat) (x : Word) (s : State) :
    chooseType i x s = .next (s.setLength (refLength i x) (ctypeRow i).kind) := rfl

/-- An offset code has its effect wherever its row exists. -/
theorem chooseOffset_next {t : Tier} {v : Word} {s u : State} (h : chooseOffset t v s = .next u) :
    ∃ row, s.offRow = some row ∧ u = s.setOffset (tierValue row t v) := by
  unfold chooseOffset at h
  split at h
  · simp at h
  · rename_i row hr
    exact ⟨row, hr, by simpa using h.symm⟩

/-- A literal-run code always has its effect. -/
theorem chooseRun_next (t : Tier) (v : Word) (s : State) :
    chooseRun t v s = .next (s.setRun (tierValue s.nlRow t v)) := rfl

/-- What phase `COPY` does. -/
theorem copyStep_next {s t : State} (h : copyStep s = .next t) :
    (s.cnt = 0 ∧ t = (s.setCnt s.nlit).setPhase .literal) ∨
    (s.cnt ≠ 0 ∧ settle (countDown (backrefStep s)) = .next t) := by
  unfold copyStep at h
  split at h
  · exact .inl ⟨‹_›, by simpa using h.symm⟩
  · exact .inr ⟨‹_›, h⟩

end Sys2Proof.Machine
end

