-- ==== Sys2Proof/Laws/Decode.lean ====
section
/-!
SUPPORT. What the decoder can do, over any source of bits: it only moves along the source, its errors are the source's own,
and each field gives one of its own codes. And the small arithmetic of bit strings.
-/

namespace Sys2Proof

variable {ε σ : Type} {next : BitSource ε σ}

/-! ## Bit strings -/

@[simp] theorem length_msbBits (n v : Nat) : (msbBits n v).length = n := by
  induction n with
  | zero => rfl
  | succ n ih => simp [msbBits, ih]

/-- One pass of the loop of `readBits(n)` in numbers. -/
theorem shift_or_bit (acc : Word) (b : Bool) :
    (acc <<< 1) ||| (if b then 1 else 0) = BitVec.ofNat 32 (2 * acc.toNat + b.toNat) := by
  have h : (acc <<< 1) ||| (if b then (1 : Word) else 0) = (acc <<< 1) + (if b then 1 else 0) := by
    rw [BitVec.add_eq_or_of_and_eq_zero]
    apply BitVec.eq_of_getLsbD_eq
    intro i hi
    cases b
    · simp
    · simp
      omega
  rw [h]
  apply BitVec.eq_of_toNat_eq
  cases b <;> simp [BitVec.toNat_add, BitVec.toNat_shiftLeft, Nat.shiftLeft_eq] <;> omega

/-- The fit condition bounds each width by 31 (spec/41 R85). -/
theorem Row.widths_le (r : Row) : r.small ≤ 31 ∧ r.medium ≤ 31 ∧ r.large ≤ 31 := by
  have h := r.fits
  have hs := Nat.one_le_two_pow (n := r.small)
  have hm := Nat.one_le_two_pow (n := r.medium)
  have hl := Nat.one_le_two_pow (n := r.large)
  refine ⟨?_, ?_, ?_⟩ <;> by_contra hw <;> push Not at hw <;>
    have := Nat.pow_le_pow_right (n := 2) (by norm_num) hw <;> omega

/-! ## The decoder moves along its source -/

/-- What a reader does along its source: it completes where `P` still holds, or stops at an error of the source met where `P`
held. -/
def Along (next : BitSource ε σ) (P : σ → Prop) {α : Type} (r : Except ε (α × σ)) : Prop :=
  (∀ a st, r = .ok (a, st) → P st) ∧ ∀ e, r = .error e → ∃ st, P st ∧ next st = .error e

variable {P : σ → Prop} (hP : ∀ st b st', P st → next st = .ok (b, st') → P st')

include hP

theorem readBitsFrom_along {n : Nat} {acc : Word} {st : σ} (h : P st) : Along next P (readBitsFrom next n acc st) := by
  induction n generalizing acc st with
  | zero => exact ⟨fun a s he => by simp only [readBitsFrom, Except.ok.injEq, Prod.mk.injEq] at he; exact he.2 ▸ h,
      fun e he => by simp [readBitsFrom] at he⟩
  | succ n ih =>
    rcases hn : next st with e | ⟨b, st'⟩
    · simp only [readBitsFrom, hn]
      exact ⟨fun _ _ he => by simp at he, fun e' he => ⟨st, h, by simp only [Except.error.injEq] at he; exact he ▸ hn⟩⟩
    · simp only [readBitsFrom, hn]
      exact ih (hP _ _ _ h hn)

theorem countZeros_along {n i : Nat} {st : σ} (h : P st) : Along next P (countZeros next n i st) := by
  induction n generalizing i st with
  | zero => exact ⟨fun a s he => by simp only [countZeros, Except.ok.injEq, Prod.mk.injEq] at he; exact he.2 ▸ h,
      fun e he => by simp [countZeros] at he⟩
  | succ n ih =>
    rcases hn : next st with e | ⟨_ | _, st'⟩
    · simp only [countZeros, hn]
      exact ⟨fun _ _ he => by simp at he, fun e' he => ⟨st, h, by simp only [Except.error.injEq] at he; exact he ▸ hn⟩⟩
    · simp only [countZeros, hn]
      exact ih (hP _ _ _ h hn)
    · simp only [countZeros, hn]
      exact ⟨fun a s he => by simp only [Except.ok.injEq, Prod.mk.injEq] at he; exact he.2 ▸ hP _ _ _ h hn,
        fun e he => by simp at he⟩

theorem decodeValue_along {n : Nat} {mk : Word → Instr} {st : σ} (h : P st) : Along next P (decodeValue next n mk st) := by
  have hb := readBitsFrom_along hP (n := n) (acc := 0) h
  unfold decodeValue
  rcases hr : readBits next n st with e | ⟨v, st'⟩
  · exact ⟨fun _ _ he => by simp at he, fun e' he => hb.2 e' (by simp only [Except.error.injEq] at he; exact he ▸ hr)⟩
  · exact ⟨fun a s he => by simp only [Except.ok.injEq, Prod.mk.injEq] at he; exact he.2 ▸ hb.1 v st' hr,
      fun e he => by simp at he⟩

theorem decodeModestore_along {row : Row} {mkS mkM mkL : Word → Instr} {st : σ} (h : P st) :
    Along next P (decodeModestore next row mkS mkM mkL st) := by
  unfold decodeModestore
  rcases h1 : next st with e | ⟨_ | _, st'⟩
  · exact ⟨fun _ _ he => by simp at he, fun e' he => ⟨st, h, by simp only [Except.error.injEq] at he; exact he ▸ h1⟩⟩
  · have h' := hP _ _ _ h h1
    rcases h2 : next st' with e | ⟨_ | _, st''⟩
    · simp only [h2]
      exact ⟨fun _ _ he => by simp at he, fun e' he => ⟨st', h', by simp only [Except.error.injEq] at he; exact he ▸ h2⟩⟩
    · simp only [h2]
      exact decodeValue_along hP (hP _ _ _ h' h2)
    · simp only [h2]
      exact decodeValue_along hP (hP _ _ _ h' h2)
  · exact decodeValue_along hP (hP _ _ _ h h1)

theorem decodeType_along {st : σ} (h : P st) : Along next P (decodeType next st) := by
  have hz := countZeros_along hP (n := maxZeros) (i := 0) h
  unfold decodeType
  rcases hc : countZeros next maxZeros 0 st with e | ⟨i, st'⟩
  · exact ⟨fun _ _ he => by simp at he, fun e' he => hz.2 e' (by simp only [Except.error.injEq] at he; exact he ▸ hc)⟩
  · have h' := hz.1 i st' hc
    have plain : ∀ x : Instr, Along next P (.ok (x, st') : Except ε (Instr × σ)) := fun x =>
      ⟨fun a s he => by simp only [Except.ok.injEq, Prod.mk.injEq] at he; exact he.2 ▸ h', fun e he => by simp at he⟩
    match i with
    | 0 => exact plain _
    | 1 => exact plain _
    | 2 => exact plain _
    | 3 => exact plain _
    | 4 => exact decodeValue_along hP (n := 3) (mk := fun x => .ct4 (x.setWidth 3)) h'
    | _ + 5 => exact decodeValue_along hP (n := 8) (mk := fun x => .ct5 (x.setWidth 8)) h'

/-- A field's decoding only moves along its source. -/
theorem decodeField_along {f : Field} {st : σ} (h : P st) : Along next P (decodeField next f st) := by
  cases f with
  | type => exact decodeType_along hP h
  | offset row => exact decodeModestore_along hP h
  | run row => exact decodeModestore_along hP h

omit hP

/-! ## Each field gives its own codes -/

/-- The codes of field `CT` with their extra bits. -/
inductive Instr.IsType : Instr → Prop
  | ct0 : Instr.IsType .ct0
  | ct1 : Instr.IsType .ct1
  | ct2 : Instr.IsType .ct2
  | ct3 : Instr.IsType .ct3
  | ct4 (x) : Instr.IsType (.ct4 x)
  | ct5 (x) : Instr.IsType (.ct5 x)

theorem decodeValue_code {n : Nat} {mk : Word → Instr} {st st' : σ} {i : Instr}
    (h : decodeValue next n mk st = .ok (i, st')) : ∃ v, i = mk v := by
  unfold decodeValue at h
  split at h
  · simp at h
  · simp only [Except.ok.injEq, Prod.mk.injEq] at h
    exact ⟨_, h.1.symm⟩

theorem decodeModestore_code {row : Row} {mkS mkM mkL : Word → Instr} {st st' : σ} {i : Instr}
    (h : decodeModestore next row mkS mkM mkL st = .ok (i, st')) : ∃ v, i = mkS v ∨ i = mkM v ∨ i = mkL v := by
  unfold decodeModestore at h
  split at h
  · simp at h
  · obtain ⟨v, hv⟩ := decodeValue_code h
    exact ⟨v, .inl hv⟩
  · split at h
    · simp at h
    · obtain ⟨v, hv⟩ := decodeValue_code h
      exact ⟨v, .inr (.inl hv)⟩
    · obtain ⟨v, hv⟩ := decodeValue_code h
      exact ⟨v, .inr (.inr hv)⟩

/-- The first field of a token gives a compression type. -/
theorem decodeType_code {st st' : σ} {i : Instr} (h : decodeField next .type st = .ok (i, st')) : i.IsType := by
  simp only [decodeField, decodeType] at h
  split at h
  · simp at h
  · simp only [Except.ok.injEq, Prod.mk.injEq] at h
    exact h.1 ▸ .ct0
  · simp only [Except.ok.injEq, Prod.mk.injEq] at h
    exact h.1 ▸ .ct1
  · simp only [Except.ok.injEq, Prod.mk.injEq] at h
    exact h.1 ▸ .ct2
  · simp only [Except.ok.injEq, Prod.mk.injEq] at h
    exact h.1 ▸ .ct3
  · split at h
    · simp at h
    · simp only [Except.ok.injEq, Prod.mk.injEq] at h
      exact h.1 ▸ .ct4 _
  · split at h
    · simp at h
    · simp only [Except.ok.injEq, Prod.mk.injEq] at h
      exact h.1 ▸ .ct5 _

/-- The second field of a token gives an offset code. -/
theorem decodeOffset_code {row : Row} {st st' : σ} {i : Instr} (h : decodeField next (.offset row) st = .ok (i, st')) :
    ∃ t v, i = Machine.offsetCode t v := by
  obtain ⟨v, rfl | rfl | rfl⟩ := decodeModestore_code h
  · exact ⟨.small, v, rfl⟩
  · exact ⟨.medium, v, rfl⟩
  · exact ⟨.large, v, rfl⟩

/-- The third field of a token gives a literal-run code. -/
theorem decodeRun_code {row : Row} {st st' : σ} {i : Instr} (h : decodeField next (.run row) st = .ok (i, st')) :
    ∃ t v, i = Machine.runCode t v := by
  obtain ⟨v, rfl | rfl | rfl⟩ := decodeModestore_code h
  · exact ⟨.small, v, rfl⟩
  · exact ⟨.medium, v, rfl⟩
  · exact ⟨.large, v, rfl⟩

end Sys2Proof
end

