-- ==== Sys2Proof/Laws/Step.lean ====
section
/-!
SUPPORT. What a step of the core and a move of the host can do, said once.
-/

namespace Sys2Proof.Machine

/-! ## Meanings of a field's codes -/

/-- A compression type sets `LEN` in 2..269 and `KIND`. -/
theorem exec_type {i : Instr} (h : i.IsType) (s : State) :
    ∃ (n : Word) (k : BitVec 2), 2 ≤ n.toNat ∧ n.toNat ≤ 269 ∧ exec i s = .next (s.setLength n k) := by
  cases h with
  | ct0 => exact ⟨_, _, by decide, by decide, rfl⟩
  | ct1 => exact ⟨_, _, by decide, by decide, rfl⟩
  | ct2 => exact ⟨_, _, by decide, by decide, rfl⟩
  | ct3 => exact ⟨_, _, by decide, by decide, rfl⟩
  | ct4 x =>
    refine ⟨_, _, ?_, ?_, rfl⟩ <;> have := x.isLt <;> simp [refLength, ctypeRow] <;> omega
  | ct5 x =>
    refine ⟨_, _, ?_, ?_, rfl⟩ <;> have := x.isLt <;> simp [refLength, ctypeRow] <;> omega

theorem exec_offset (t : Tier) (v : Word) (s : State) : exec (offsetCode t v) s = chooseOffset t v s := by cases t <;> rfl

theorem exec_run (t : Tier) (v : Word) (s : State) : exec (runCode t v) s = chooseRun t v s := by cases t <;> rfl

/-! ## The fetch -/

/-- What reading the cursor has made of a state: the cursor has moved down, or not at all, and nothing else has changed. -/
def CursorMoved (s t : State) : Prop := t = s.setCursor t.rp t.sr ∧ t.rp.toNat ≤ s.rp.toNat

theorem CursorMoved.refl (s : State) : CursorMoved s s := ⟨rfl, le_refl _⟩

theorem readBit_moves {s : State} : ∀ t b t', CursorMoved s t → readBit t = .ok (b, t') → CursorMoved s t' := by
  intro t b t' ⟨he, hle⟩ h
  have hc := readBit_cursor h
  refine ⟨by rw [hc, he]; rfl, ?_⟩
  rcases readBit_ok h with ⟨-, h0, -, -, rfl⟩ | ⟨-, -, rfl⟩
  · rw [setCursor_rp, toNat_pred h0]
    omega
  · exact hle

/-- A field's fetch moves the cursor, or stops where the cursor has moved to. -/
theorem decodeField_cursor (f : Field) (s : State) : Along readBit (CursorMoved s) (decodeField readBit f s) :=
  decodeField_along readBit_moves (CursorMoved.refl s)

/-- A field's fetch that stops has run out of stream at the sentinel, or found a byte that does not exist. -/
theorem decodeField_error {f : Field} {s : State} {e : Stop} (h : decodeField readBit f s = .error e) :
    ∃ t, CursorMoved s t ∧ t.sr = sentinel ∧
      ((t.rp = 0 ∧ e = .raise .readUnderflow t) ∨ (t.bufLen.toNat < t.rp.toNat ∧ e = .halt .bufAddress)) := by
  obtain ⟨t, hm, he⟩ := (decodeField_cursor f s).2 e h
  exact ⟨t, hm, readBit_error he⟩

/-- The field the decode is at, by its place in the token. -/
theorem nextField_some {s : State} {f : Field} (h : s.nextField = some f) :
    (s.tokenField = .type ∧ f = .type) ∨ (s.tokenField = .offset ∧ ∃ row, s.offRow = some row ∧ f = .offset row) ∨
      (s.tokenField = .run ∧ f = .run s.nlRow) := by
  unfold State.nextField at h
  split at h
  · exact .inl ⟨‹_›, by simpa using h.symm⟩
  · obtain ⟨row, hr, rfl⟩ := Option.map_eq_some_iff.mp h
    exact .inr (.inl ⟨‹_›, row, hr, rfl⟩)
  · exact .inr (.inr ⟨‹_›, by simpa using h.symm⟩)

theorem nextField_none {s : State} (h : s.nextField = none) : s.offRow = none := by
  unfold State.nextField at h
  split at h
  · simp at h
  · simpa using h
  · simp at h

/-- What a fetch's stop does beside moving the cursor touches nothing but `KIND`. -/
theorem withKind_raise (f : Field) (s t : State) (c : Cause) : ∃ k, (Stop.raise c t).withKind f s = .raise c (t.setKind k) := by
  unfold Stop.withKind
  split
  · rename_i h _
    simp only [Stop.raise.injEq] at h
    exact ⟨_, by rw [h.1, h.2]⟩
  · exact ⟨t.kind, rfl⟩

theorem withKind_halt (f : Field) (s : State) (x : Fault) : (Stop.halt x).withKind f s = .halt x := by
  unfold Stop.withKind
  split
  · simp_all
  · rfl

/-- A token field that is fetched: the decoder's answer for the field the decode is at. -/
theorem fetchField_decode {s s' : State} {i : Instr} (h : fetchField s = .ok (i, s')) :
    ∃ f, s.nextField = some f ∧ decodeField readBit f s = .ok (i, s') := by
  unfold fetchField at h
  split at h
  · simp at h
  · rename_i f hf
    split at h
    · simp at h
    · exact ⟨f, hf, by simp_all⟩

/-- A token field that is fetched is one of the codes of the field the decode is at. -/
theorem fetchField_ok {s s' : State} {i : Instr} (h : fetchField s = .ok (i, s')) :
    CursorMoved s s' ∧
      ((s.tokenField = .type ∧ i.IsType) ∨ (s.tokenField = .offset ∧ ∃ t v, i = offsetCode t v) ∨
       (s.tokenField = .run ∧ ∃ t v, i = runCode t v)) := by
  obtain ⟨f, hf, hd⟩ := fetchField_decode h
  refine ⟨(decodeField_cursor _ _).1 _ _ hd, ?_⟩
  rcases nextField_some hf with ⟨ht, rfl⟩ | ⟨ht, row, -, rfl⟩ | ⟨ht, rfl⟩
  · exact .inl ⟨ht, decodeType_code hd⟩
  · exact .inr (.inl ⟨ht, decodeOffset_code hd⟩)
  · exact .inr (.inr ⟨ht, decodeRun_code hd⟩)

/-- Why a token field is not fetched. -/
theorem fetchField_error {s : State} {e : Stop} (h : fetchField s = .error e) :
    (∃ t, CursorMoved s t ∧ t.sr = sentinel ∧
      ((t.rp = 0 ∧ ∃ k, e = .raise .readUnderflow (t.setKind k)) ∨
        (t.bufLen.toNat < t.rp.toNat ∧ e = .halt .bufAddress))) ∨
    (s.offRow = none ∧ e = .halt .offsetTableIndex) := by
  unfold fetchField at h
  split at h
  · exact .inr ⟨nextField_none ‹_›, by simpa using h.symm⟩
  · rename_i f _
    split at h
    · rename_i e' he
      simp only [Except.error.injEq] at h
      subst h
      obtain ⟨t, hm, hsr, ⟨h0, rfl⟩ | ⟨hlt, rfl⟩⟩ := decodeField_error he
      · exact .inl ⟨t, hm, hsr, .inl ⟨h0, withKind_raise f s t _⟩⟩
      · exact .inl ⟨t, hm, hsr, .inr ⟨hlt, withKind_halt f s _⟩⟩
    · simp at h

/-- An offset row exists for every legal pack mode (spec/41 R92). -/
theorem offRow_isSome {s : State} (h : s.pmode.toNat ≤ 8) : s.offRow.isSome = true := by
  have hlt : s.pmode.toNat < 9 := by omega
  simp [State.offRow, hlt]

/-! ## One step of the core -/

/-- The rows of the phase table a step of the core can be, each with what it makes of the state (spec/42 R110). -/
inductive CoreMove (s t : State) : Prop
  /-- IDLE, DONE, FAULT. -/
  | rest (h : s.busy = false) (ht : t = s)
  /-- The end of a literal run. -/
  | boundary (h : s.inLiteralRun) (hc : s.cnt = 0) (ht : t = boundaryTest s)
  /-- A literal move that finds no stream byte. -/
  | literalStarved (h : s.inLiteralRun) (hc : s.cnt ≠ 0) (h0 : s.rp = 0) (ht : t = s.faultEntry .readUnderflow)
  /-- A literal move that reads its byte. -/
  | literal (h : s.inLiteralRun) (hc : s.cnt ≠ 0) (h0 : s.rp ≠ 0) (hle : s.rp.toNat ≤ s.bufLen.toNat)
      (ht : settle (countDown (writeByte (s.bufByte (s.rp.toNat - 1)) (s.setCursor (s.rp - 1) s.sr))) = .next t)
  /-- A token field that finds the stream at its end. -/
  | fieldStarved (h : s.phase = .token) (u : State) (hm : CursorMoved s u) (hsr : u.sr = sentinel) (h0 : u.rp = 0)
      (k : BitVec 2) (ht : t = (u.setKind k).faultEntry .readUnderflow)
  /-- A compression type. -/
  | type (h : s.phase = .token) (hf : s.tokenField = .type) (u : State) (hm : CursorMoved s u) (n : Word) (k : BitVec 2)
      (hlo : 2 ≤ n.toNat) (hhi : n.toNat ≤ 269) (ht : t = u.setLength n k)
  /-- An offset. -/
  | offset (h : s.phase = .token) (hf : s.tokenField = .offset) (u : State) (hm : CursorMoved s u) (n : Word)
      (ht : t = u.setOffset n)
  /-- A literal-run length: the token is complete. -/
  | run (h : s.phase = .token) (hf : s.tokenField = .run) (u : State) (hm : CursorMoved s u) (n : Word) (ht : t = u.setRun n)
  /-- The end of a copy. -/
  | copyEnd (h : s.phase = .copy) (hc : s.cnt = 0) (ht : t = (s.setCnt s.nlit).setPhase .literal)
  /-- A back-reference byte step. -/
  | copy (h : s.phase = .copy) (hc : s.cnt ≠ 0) (ht : settle (countDown (backrefStep s)) = .next t)

theorem fetch_literalRun {s : State} (h : s.inLiteralRun) (hc : s.cnt ≠ 0) : fetch s = some (fetchLiteral s) := by
  rcases h with h | h <;> simp only [fetch, h] <;> exact if_neg hc

theorem coreStep_literalRun {s t : State} (h : s.inLiteralRun) (ht : coreStep s = .next t) : CoreMove s t := by
  by_cases hc : s.cnt = 0
  · have hs : coreStep s = .next (boundaryTest s) := by
      rcases h with h | h <;> simp [coreStep, fetch, h, phaseStep, hc]
    exact .boundary h hc (by simpa using ht.symm.trans hs)
  · simp only [coreStep, fetch_literalRun h hc, fetchLiteral] at ht
    rcases hb : readByte s with e | ⟨b, s'⟩
    · rw [hb] at ht
      rcases readByte_error hb with ⟨h0, rfl⟩ | ⟨-, rfl⟩
      · exact .literalStarved h hc h0 (by simpa [Stop.outcome] using ht.symm)
      · simp [Stop.outcome] at ht
    · rw [hb] at ht
      obtain ⟨h0, hle, rfl, rfl⟩ := readByte_ok hb
      exact .literal h hc h0 hle ht

theorem coreStep_token {s t : State} (h : s.phase = .token) (ht : coreStep s = .next t) : CoreMove s t := by
  simp only [coreStep, fetch, h] at ht
  rcases hf : fetchField s with e | ⟨i, u⟩
  · rw [hf] at ht
    rcases fetchField_error hf with ⟨u, hm, hsr, ⟨h0, k, rfl⟩ | ⟨-, rfl⟩⟩ | ⟨-, rfl⟩
    · exact .fieldStarved h u hm hsr h0 k (by simpa [Stop.outcome] using ht.symm)
    · simp [Stop.outcome] at ht
    · simp [Stop.outcome] at ht
  · rw [hf] at ht
    obtain ⟨hm, ⟨hff, hi⟩ | ⟨hff, x, v, rfl⟩ | ⟨hff, x, v, rfl⟩⟩ := fetchField_ok hf
    · obtain ⟨n, k, hlo, hhi, he⟩ := exec_type hi u
      exact .type h hff u hm n k hlo hhi (by simpa using ht.symm.trans he)
    · simp only [exec_offset] at ht
      obtain ⟨row, -, rfl⟩ := chooseOffset_next ht
      exact .offset h hff u hm _ rfl
    · simp only [exec_run] at ht
      exact .run h hff u hm _ (by simpa using ht.symm.trans (chooseRun_next x v u))

/-- Everything a step of the core can do. -/
theorem coreStep_next {s t : State} (ht : coreStep s = .next t) : CoreMove s t := by
  rcases hp : s.phase with _ | _ | _ | _ | _ | _ | _
  · exact .rest (by simp [State.busy, hp, Phase.busy]) (by simpa [coreStep, fetch, hp, phaseStep] using ht.symm)
  · exact coreStep_literalRun (.inl hp) ht
  · exact coreStep_token hp ht
  · have hs : copyStep s = .next t := by simpa [coreStep, fetch, hp, phaseStep] using ht
    rcases copyStep_next hs with ⟨hc, rfl⟩ | ⟨hc, h⟩
    · exact .copyEnd hp hc rfl
    · exact .copy hp hc h
  · exact coreStep_literalRun (.inr hp) ht
  · exact .rest (by simp [State.busy, hp, Phase.busy]) (by simpa [coreStep, fetch, hp, phaseStep] using ht.symm)
  · exact .rest (by simp [State.busy, hp, Phase.busy]) (by simpa [coreStep, fetch, hp, phaseStep] using ht.symm)

/-! ## One step of the machine -/

/-- A step is a step of the core, or the host's next move: a START or another one. -/
theorem step_next {s t : State} (h : step s = .next t) :
    (s.host = [] ∧ coreStep s = .next t) ∨
    (∃ rest, s.host = .wait :: rest ∧ coreStep { s with host := rest } = .next t) ∨
    ∃ m rest, s.host = m :: rest ∧
      ((∃ v q, startOf m = some (.start v q) ∧ execStart v q { s with host := rest } = .next t) ∨
       (m ≠ .wait ∧ startOf m = none ∧ hostAct m { s with host := rest } = .next t)) := by
  unfold step at h
  split at h
  · exact .inl ⟨‹_›, h⟩
  · exact .inr (.inl ⟨_, ‹_›, h⟩)
  · rename_i m rest hw hs
    refine .inr (.inr ⟨m, rest, hs, ?_⟩)
    unfold hostStep at h
    split at h
    · rename_i i hi
      left
      cases m with
      | regWrite offset width v =>
        simp only [startOf, decodeCtrl] at hi
        split at hi
        · split at hi
          · simp only [Option.some.injEq] at hi
            subst hi
            exact ⟨_, _, by simp only [startOf, decodeCtrl]; rw [if_pos ‹_›, if_pos ‹_›], h⟩
          · simp at hi
        · simp at hi
      | _ => simp [startOf] at hi
    · rename_i hn
      exact .inr ⟨fun hm => hw hm, hn, h⟩

/-- A register access that completes is an aligned 32-bit word, and a buffer access that completes is made while not BUSY. -/
theorem bufferAccess_next {s s' t : State} {p : Bool} {f : Fault} (h : bufferAccess s p f s' = .next t) :
    s.busy = false ∧ p = true ∧ t = s' := by
  unfold bufferAccess at h
  split at h
  · simp at h
  · split at h
    · exact ⟨by simpa using ‹¬s.busy = true›, ‹_›, by simpa using h.symm⟩
    · simp at h

end Sys2Proof.Machine
end

