-- ==== Sys2Proof/Laws/Boundary.lean ====
section
/-!
SUPPORT. Running a decode through again: the core does not see the host's side of the state, what START found stays on record
through every step of the core, and one more step of a run is one step of the core.
-/

namespace Sys2Proof

variable {ε ε' σ σ' α : Type}

/-- An answer of a reader, carried over to another source of bits. -/
def mapAnswer (e : ε → ε') (g : σ → σ') : Except ε (α × σ) → Except ε' (α × σ')
  | .error x => .error (e x)
  | .ok (a, st) => .ok (a, g st)

section
variable {next : BitSource ε σ} {next' : BitSource ε' σ'} {e : ε → ε'} {g : σ → σ'}
  (hn : ∀ st, next' (g st) = mapAnswer e g (next st))
include hn

theorem readBitsFrom_map (n : Nat) (acc : Word) (st : σ) :
    readBitsFrom next' n acc (g st) = mapAnswer e g (readBitsFrom next n acc st) := by
  induction n generalizing acc st with
  | zero => rfl
  | succ n ih => rcases h : next st with x | ⟨b, st'⟩ <;> simp [readBitsFrom, hn, h, mapAnswer, ih]

theorem countZeros_map (n i : Nat) (st : σ) :
    countZeros next' n i (g st) = mapAnswer e g (countZeros next n i st) := by
  induction n generalizing i st with
  | zero => rfl
  | succ n ih => rcases h : next st with x | ⟨_ | _, st'⟩ <;> simp [countZeros, hn, h, mapAnswer, ih]

theorem decodeValue_map (n : Nat) (mk : Word → Instr) (st : σ) :
    decodeValue next' n mk (g st) = mapAnswer e g (decodeValue next n mk st) := by
  simp only [decodeValue, readBits, readBitsFrom_map hn]
  rcases readBitsFrom next n 0 st with x | ⟨v, st'⟩ <;> rfl

theorem decodeModestore_map (row : Row) (mkS mkM mkL : Word → Instr) (st : σ) :
    decodeModestore next' row mkS mkM mkL (g st) = mapAnswer e g (decodeModestore next row mkS mkM mkL st) := by
  rcases h : next st with x | ⟨_ | _, st'⟩
  · simp [decodeModestore, hn, h, mapAnswer]
  · rcases h' : next st' with x | ⟨_ | _, st''⟩ <;>
      simp [decodeModestore, hn, h, h', mapAnswer, decodeValue_map hn]
  · simp [decodeModestore, hn, h, mapAnswer, decodeValue_map hn]

theorem decodeType_map (st : σ) : decodeType next' (g st) = mapAnswer e g (decodeType next st) := by
  simp only [decodeType, countZeros_map hn]
  rcases countZeros next maxZeros 0 st with x | ⟨i, st'⟩
  · rfl
  · match i with
    | 0 => rfl
    | 1 => rfl
    | 2 => rfl
    | 3 => rfl
    | 4 =>
      simp only [mapAnswer, readBits, readBitsFrom_map hn]
      rcases readBitsFrom next 3 0 st' with x | ⟨v, st''⟩ <;> rfl
    | _ + 5 =>
      simp only [mapAnswer, readBits, readBitsFrom_map hn]
      rcases readBitsFrom next 8 0 st' with x | ⟨v, st''⟩ <;> rfl

/-- Two sources that answer alike give the same fields. -/
theorem decodeField_map (f : Field) (st : σ) :
    decodeField next' f (g st) = mapAnswer e g (decodeField next f st) := by
  cases f with
  | type => exact decodeType_map hn st
  | offset row => exact decodeModestore_map hn row _ _ _ st
  | run row => exact decodeModestore_map hn row _ _ _ st

end

namespace Machine

/-! ## The host's side of the state -/

/-- The same core, with another host: its moves, what it last read, and the reads it has made while BUSY. -/
def State.setHost (s : State) (moves : List HostMove) (data : Word) (reads : Nat) : State :=
  { s with host := moves, hostData := data, freeReads := reads }

/-- A primitive's stop, with another host. -/
def Stop.setHost (m : List HostMove) (d : Word) (k : Nat) : Stop → Stop
  | .raise c s => .raise c (s.setHost m d k)
  | .halt f => .halt f

/-- An outcome, with another host. -/
def outcomeHost (m : List HostMove) (d : Word) (k : Nat) :
    Host.Outcome State Fault Refusal → Host.Outcome State Fault Refusal
  | .next s => .next (s.setHost m d k)
  | .fault f => .fault f
  | .refused r => .refused r

/-- A sequence of primitives, with another host. -/
def resultHost (m : List HostMove) (d : Word) (k : Nat) : Except Stop State → Except Stop State
  | .error e => .error (e.setHost m d k)
  | .ok s => .ok (s.setHost m d k)

variable (m : List HostMove) (d : Word) (k : Nat)

theorem readByte_setHost (s : State) :
    readByte (s.setHost m d k) = mapAnswer (Stop.setHost m d k) (fun t => t.setHost m d k) (readByte s) := by
  by_cases h0 : s.rp = 0
  · simp [readByte, State.setHost, h0, mapAnswer, Stop.setHost]
  · by_cases hlt : (s.rp - 1).toNat < s.bufLen.toNat
    · rw [readByte, if_neg (by exact h0), readByte, if_neg h0, bufLoad_of_lt hlt, bufLoad_of_lt (by exact hlt)]
      rfl
    · have hb : bufLoad s (s.rp - 1).toNat = .error (.halt .bufAddress) := if_neg hlt
      have hb' : bufLoad (s.setHost m d k) ((s.setHost m d k).rp - 1).toNat = .error (.halt .bufAddress) := if_neg hlt
      rw [readByte, if_neg (by exact h0), readByte, if_neg h0, hb, hb']
      rfl

theorem readBit_setHost (s : State) :
    readBit (s.setHost m d k) = mapAnswer (Stop.setHost m d k) (fun t => t.setHost m d k) (readBit s) := by
  by_cases hs : s.sr = sentinel
  · rw [readBit, if_pos (by exact hs), readBit, if_pos hs, readByte_setHost]
    rcases readByte s with e | ⟨b, t⟩ <;> rfl
  · rw [readBit, if_neg (by exact hs), readBit, if_neg hs]
    rfl

theorem withKind_setHost (f : Field) (s : State) (e : Stop) :
    (e.setHost m d k).withKind f (s.setHost m d k) = (e.withKind f s).setHost m d k := by
  have hc := countZeros_map (next := readBit) (next' := readBit) (readBit_setHost m d k) maxZeros 0 s
  cases e with
  | halt x => rw [withKind_halt, Stop.setHost, withKind_halt]
  | raise c t =>
    cases f with
    | type =>
      simp only [Stop.withKind, Stop.setHost, hc]
      rcases countZeros readBit maxZeros 0 s with x | ⟨i, u⟩ <;> rfl
    | offset row => rfl
    | run row => rfl

theorem fetchField_setHost (s : State) :
    fetchField (s.setHost m d k) = mapAnswer (Stop.setHost m d k) (fun t => t.setHost m d k) (fetchField s) := by
  have hf : (s.setHost m d k).nextField = s.nextField := rfl
  simp only [fetchField, hf]
  rcases s.nextField with _ | f
  · rfl
  · have hd := decodeField_map (next := readBit) (next' := readBit) (readBit_setHost m d k) f s
    simp only [hd]
    rcases decodeField readBit f s with e | ⟨i, t⟩
    · simp only [mapAnswer, withKind_setHost]
    · rfl

theorem verifyCompare_setHost (a : Word) (v : Byte) (s : State) :
    verifyCompare a v (s.setHost m d k) = resultHost m d k (verifyCompare a v s) := by
  by_cases he : a < s.expLen
  · rw [verifyCompare, if_pos (by exact he), verifyCompare, if_pos he]
    by_cases hb : s.expByte a.toNat = v
    · rw [if_pos (by exact hb), if_pos hb]
      rfl
    · rw [if_neg (by exact hb), if_neg hb]
      rfl
  · rw [verifyCompare, if_neg (by exact he), verifyCompare, if_neg he]
    rfl

theorem writeByte_setHost (v : Byte) (s : State) :
    writeByte v (s.setHost m d k) = resultHost m d k (writeByte v s) := by
  by_cases h0 : s.wp = 0
  · rw [writeByte, if_pos (by exact h0), writeByte, if_pos h0]
    rfl
  · rw [writeByte, if_neg (by exact h0), writeByte, if_neg h0]
    by_cases hlt : s.wp - 1 < s.bufLen
    · rw [if_pos (by exact hlt), if_pos hlt]
      by_cases hv : s.verifying = true
      · rw [if_pos (by exact hv), if_pos hv]
        exact verifyCompare_setHost m d k (s.wp - 1) v (s.putByte (s.wp - 1) v)
      · rw [if_neg (by exact hv), if_neg hv]
        rfl
    · rw [if_neg (by exact hlt), if_neg hlt]
      rfl

theorem backrefStep_setHost (s : State) : backrefStep (s.setHost m d k) = resultHost m d k (backrefStep s) := by
  by_cases h0 : s.wp = 0
  · rw [backrefStep, if_pos (by exact h0), backrefStep, if_pos h0]
    rfl
  · rw [backrefStep, if_neg (by exact h0), backrefStep, if_neg h0]
    by_cases ho : s.off = 0
    · rw [if_pos (by exact ho), if_pos ho]
      rfl
    · rw [if_neg (by exact ho), if_neg ho]
      by_cases hr : s.wtop.toNat ≤ s.refAddr
      · rw [if_pos (by exact hr), if_pos hr]
        rfl
      · rw [if_neg (by exact hr), if_neg hr]
        have hb : bufLoad (s.setHost m d k) (s.setHost m d k).refAddr = bufLoad s s.refAddr := rfl
        rw [hb]
        by_cases hlt : s.refAddr < s.bufLen.toNat
        · rw [bufLoad_of_lt hlt]
          exact writeByte_setHost m d k _ s
        · have he : bufLoad s s.refAddr = .error (.halt .bufAddress) := if_neg hlt
          rw [he]
          rfl

/-- A counted move, with another host. -/
theorem settle_setHost {r r' : Except Stop State} (h : r' = resultHost m d k r) :
    settle (countDown r') = outcomeHost m d k (settle (countDown r)) := by
  subst h
  rcases r with (⟨c, t⟩ | f) | t <;> rfl

theorem execLitb_setHost (b : Byte) (s : State) :
    execLitb b (s.setHost m d k) = outcomeHost m d k (execLitb b s) := settle_setHost m d k (writeByte_setHost m d k b s)

theorem chooseOffset_setHost (t : Tier) (v : Word) (s : State) :
    chooseOffset t v (s.setHost m d k) = outcomeHost m d k (chooseOffset t v s) := by
  have h : (s.setHost m d k).offRow = s.offRow := rfl
  simp only [chooseOffset, h]
  rcases s.offRow with _ | row <;> rfl

/-- What an instruction of the stream does, with another host. START is the host's own. -/
theorem exec_setHost {i : Instr} (hi : ∀ v q, i ≠ .start v q) (s : State) :
    exec i (s.setHost m d k) = outcomeHost m d k (exec i s) := by
  cases i with
  | offS v => exact chooseOffset_setHost m d k .small v s
  | offM v => exact chooseOffset_setHost m d k .medium v s
  | offL v => exact chooseOffset_setHost m d k .large v s
  | litb b => exact execLitb_setHost m d k b s
  | start v q => exact absurd rfl (hi v q)
  | _ => rfl

theorem copyStep_setHost (s : State) : copyStep (s.setHost m d k) = outcomeHost m d k (copyStep s) := by
  by_cases h : s.cnt = 0
  · rw [copyStep, if_pos (by exact h), copyStep, if_pos h]
    rfl
  · rw [copyStep, if_neg (by exact h), copyStep, if_neg h]
    exact settle_setHost m d k (backrefStep_setHost m d k s)

theorem boundaryTest_setHost (s : State) : boundaryTest (s.setHost m d k) = (boundaryTest s).setHost m d k := by
  by_cases h : s.wp = 0
  · rw [boundaryTest, if_pos (by exact h), boundaryTest, if_pos h]
    rfl
  · rw [boundaryTest, if_neg (by exact h), boundaryTest, if_neg h]
    rfl

theorem phaseStep_setHost (s : State) : phaseStep (s.setHost m d k) = outcomeHost m d k (phaseStep s) := by
  have hp : (s.setHost m d k).phase = s.phase := rfl
  simp only [phaseStep, hp, boundaryTest_setHost, copyStep_setHost]
  rcases s.phase <;> rfl

/-- A fetch's answer, with another host. -/
def fetchHost (m : List HostMove) (d : Word) (k : Nat) :
    Option (Except Stop (Instr × State)) → Option (Except Stop (Instr × State)) :=
  Option.map (mapAnswer (Stop.setHost m d k) fun t => t.setHost m d k)

theorem fetchLiteral_setHost (s : State) :
    fetchLiteral (s.setHost m d k) = mapAnswer (Stop.setHost m d k) (fun t => t.setHost m d k) (fetchLiteral s) := by
  simp only [fetchLiteral, readByte_setHost]
  rcases readByte s with e | ⟨b, t⟩ <;> rfl

theorem fetch_setHost (s : State) : fetch (s.setHost m d k) = fetchHost m d k (fetch s) := by
  have hp : (s.setHost m d k).phase = s.phase := rfl
  have hc : (s.setHost m d k).cnt = s.cnt := rfl
  simp only [fetch, hp, hc, fetchLiteral_setHost, fetchField_setHost]
  by_cases h : s.cnt = 0
  · simp only [if_pos h]
    rcases s.phase <;> rfl
  · simp only [if_neg h]
    rcases s.phase <;> rfl

/-- What the core fetches is never a START. -/
theorem fetch_not_start {s t : State} {i : Instr} (h : fetch s = some (.ok (i, t))) (v q : Bool) : i ≠ .start v q := by
  have literal : ∀ {o : Option (Except Stop (Instr × State))},
      (o = none ∨ o = some (fetchLiteral s)) → o = some (.ok (i, t)) → i ≠ .start v q := by
    rintro o (rfl | rfl) h
    · simp at h
    · simp only [Option.some.injEq, fetchLiteral] at h
      split at h
      · simp at h
      · simp only [Except.ok.injEq, Prod.mk.injEq, decodeLiteral] at h
        simp [← h.1]
  have run : (if s.cnt = 0 then none else some (fetchLiteral s)) = none ∨
      (if s.cnt = 0 then none else some (fetchLiteral s)) = some (fetchLiteral s) := by
    split
    · exact .inl rfl
    · exact .inr rfl
  rcases hp : s.phase <;> simp only [fetch, hp] at h
  · simp at h
  · exact literal run h
  · obtain ⟨-, ⟨-, hi⟩ | ⟨-, x, w, rfl⟩ | ⟨-, x, w, rfl⟩⟩ := fetchField_ok (Option.some.inj h)
    · cases hi <;> simp
    · cases x <;> simp [offsetCode]
    · cases x <;> simp [runCode]
  · simp at h
  · exact literal run h
  · simp at h
  · simp at h

/-- The core does not see the host. -/
theorem coreStep_setHost (s : State) : coreStep (s.setHost m d k) = outcomeHost m d k (coreStep s) := by
  simp only [coreStep, fetch_setHost]
  rcases h : fetch s with _ | (⟨c, t⟩ | f) | ⟨i, t⟩
  · exact phaseStep_setHost m d k s
  · rfl
  · rfl
  · exact exec_setHost m d k (fetch_not_start h) t

/-! ## Runs of the core -/

theorem advance_setHost (n : Nat) (s : State) : advance n (s.setHost m d k) = (advance n s).setHost m d k := by
  induction n generalizing s with
  | zero => rfl
  | succ n ih =>
    have hb : (s.setHost m d k).busy = s.busy := rfl
    simp only [advance, hb, coreStep_setHost]
    cases s.busy
    · rfl
    · rcases coreStep s with t | f | r
      · simpa [outcomeHost] using ih t
      · rfl
      · rfl

/-- A decode starts the same whatever the host does. -/
theorem decodeStart_setHost (s : State) : (s.setHost m d k).decodeStart = s.decodeStart.setHost m d k := rfl

/-- A decode that is not under way does not advance. -/
theorem advance_idle {n : Nat} {s : State} (h : s.busy = false) : advance n s = s := by
  cases n <;> simp [advance, h]

/-- One more step of a run is one step of the core from where the run stands. -/
theorem advance_next {n : Nat} {s t : State} (hb : (advance n s).busy = true) (h : coreStep (advance n s) = .next t) :
    advance (n + 1) s = t := by
  induction n generalizing s with
  | zero =>
    have hb' : s.busy = true := hb
    have h' : coreStep s = .next t := h
    simp [advance, hb', h']
  | succ n ih =>
    have hs : s.busy = true := by
      by_contra hs
      rw [Bool.not_eq_true] at hs
      rw [advance_idle hs, hs] at hb
      simp at hb
    rcases hc : coreStep s with u | f | r
    · have hu : advance (n + 1) s = advance n u := by simp [advance, hs, hc]
      rw [hu] at hb h
      have := ih hb h
      rw [advance, if_pos hs, hc]
      exact this
    · have hu : advance (n + 1) s = s := by simp [advance, hs, hc]
      rw [hu, hc] at h
      simp at h
    · have hu : advance (n + 1) s = s := by simp [advance, hs, hc]
      rw [hu, hc] at h
      simp at h

/-- What a write of the output leaves of the record. -/
theorem settle_decodeStart {r : Except Stop State} {s t : State} (h : settle (countDown r) = .next t)
    (hok : ∀ u, r = .ok u → u.decodeStart = s.decodeStart)
    (herr : ∀ c u, r = .error (.raise c u) → u.decodeStart = s.decodeStart) : t.decodeStart = s.decodeStart := by
  rcases settle_next h with hr | ⟨c, u, hr, rfl⟩
  · obtain ⟨u, hu, rfl⟩ := countDown_ok hr
    exact hok u hu
  · exact herr c u (countDown_error hr)

theorem writeByte_decodeStart {v : Byte} {s t : State} (h : settle (countDown (writeByte v s)) = .next t) :
    t.decodeStart = s.decodeStart := by
  refine settle_decodeStart h (fun u hu => ?_) fun c u hu => ?_
  · obtain ⟨-, -, rfl, -⟩ := writeByte_ok hu
    rfl
  · rcases writeByte_error hu with ⟨-, h⟩ | ⟨-, -, h⟩ | ⟨-, -, -, h⟩ | ⟨-, -, -, -, h⟩ <;> cases h <;> rfl

theorem CursorMoved.decodeStart {s t : State} (h : CursorMoved s t) : t.decodeStart = s.decodeStart := by
  rw [h.1]
  rfl

/-- What START found stays on record through every step of the core. -/
theorem CoreMove.decodeStart {s t : State} (h : CoreMove s t) : t.decodeStart = s.decodeStart := by
  cases h with
  | rest h ht => rw [ht]
  | boundary h hc ht =>
    subst ht
    unfold boundaryTest
    split <;> rfl
  | literalStarved h hc h0 ht => subst ht; rfl
  | literal h hc h0 hle ht => exact (writeByte_decodeStart ht).trans rfl
  | fieldStarved h u hm hsr h0 x ht => subst ht; exact hm.decodeStart
  | type h hf u hm n x hlo hhi ht => subst ht; exact hm.decodeStart
  | offset h hf u hm n ht => subst ht; exact hm.decodeStart
  | run h hf u hm n ht => subst ht; exact hm.decodeStart
  | copyEnd h hc ht => subst ht; rfl
  | copy h hc ht =>
    refine settle_decodeStart ht (fun u hu => ?_) fun c u hu => ?_
    · obtain ⟨-, -, rfl, -⟩ := writeByte_ok (backrefStep_ok hu).2.2.2
      rfl
    · rcases backrefStep_error hu with ⟨-, h⟩ | ⟨-, -, h⟩ | ⟨-, -, -, h⟩ | ⟨-, -, -, -, h⟩ | ⟨-, -, -, -, h⟩
      · cases h; rfl
      · cases h; rfl
      · cases h; rfl
      · cases h
      · rcases writeByte_error h with ⟨-, h⟩ | ⟨-, -, h⟩ | ⟨-, -, -, h⟩ | ⟨-, -, -, -, h⟩ <;> cases h <;> rfl

end Machine

end Sys2Proof
end

