-- ==== Sys2Proof/Laws/PerInstr.lean ====
section
/-!
SUPPORT. A law of every instruction as syntax, constructor by constructor: the length of its encoding (spec/30 R66 to R69, R71).
-/

namespace Sys2Proof

/-- How many bits an instruction takes, from the code tables of spec/30 R66 to R69; START is one 32-bit register write. -/
def Instr.bits (r : Rows) : Instr → Nat
  | .ct0 => 1
  | .ct1 => 2
  | .ct2 => 3
  | .ct3 => 4
  | .ct4 _ => 5 + 3
  | .ct5 _ => 5 + 8
  | .offS _ => 1 + r.off.small
  | .offM _ => 2 + r.off.medium
  | .offL _ => 2 + r.off.large
  | .nlS _ => 1 + r.nl.small
  | .nlM _ => 2 + r.nl.medium
  | .nlL _ => 2 + r.nl.large
  | .litb _ => 8
  | .start _ _ => 32

end Sys2Proof

namespace Sys2Proof.Laws.EncodeLength

/-- The encoding has the length of the code table. -/
def Statement (i : Instr) : Prop := ∀ r : Rows, (encode r i).length = i.bits r

theorem ct0 : Statement .ct0 := fun _ => rfl

theorem ct1 : Statement .ct1 := fun _ => rfl

theorem ct2 : Statement .ct2 := fun _ => rfl

theorem ct3 : Statement .ct3 := fun _ => rfl

theorem ct4 (x : BitVec 3) : Statement (.ct4 x) := fun _ => by simp [encode, Instr.bits]

theorem ct5 (x : BitVec 8) : Statement (.ct5 x) := fun _ => by simp [encode, Instr.bits]

theorem offS (v : Word) : Statement (.offS v) := fun _ => by simp +arith [encode, Instr.bits]

theorem offM (v : Word) : Statement (.offM v) := fun _ => by simp +arith [encode, Instr.bits]

theorem offL (v : Word) : Statement (.offL v) := fun _ => by simp +arith [encode, Instr.bits]

theorem nlS (v : Word) : Statement (.nlS v) := fun _ => by simp +arith [encode, Instr.bits]

theorem nlM (v : Word) : Statement (.nlM v) := fun _ => by simp +arith [encode, Instr.bits]

theorem nlL (v : Word) : Statement (.nlL v) := fun _ => by simp +arith [encode, Instr.bits]

theorem litb (b : Byte) : Statement (.litb b) := fun _ => by simp [encode, byteBits, Instr.bits]

theorem start (v q : Bool) : Statement (.start v q) := fun _ => by simp [encode, Instr.bits]

end Sys2Proof.Laws.EncodeLength
end

