-- ==== Sys2Proof/Tests/Slice0.lean ====
section
/-!
SUPPORT. Tests: ill-formed terms, codes written out bit by bit, one-step vectors of spec/95, and for every statement with
hypotheses a witness that meets them. The tables are the test configuration T of spec/95.
-/

open Sys2Proof Sys2Proof.Machine

namespace Sys2Proof.Tests

/-! ## The test configuration T (spec/95) and small states -/

/-- `OFFSET_TABLE[m][k]` for m = 0..7. -/
def rowT : Row := { small := 2, medium := 4, large := 8 }

/-- `OFFSET_TABLE[8][k]`. -/
def rowT8 : Row := { small := 0, medium := 1, large := 2 }

/-- `LITLEN_TABLE[k]` for k = 0, 1, 2. -/
def nlT : Row := { small := 1, medium := 2, large := 4 }

/-- `LITLEN_TABLE[3]`. -/
def nlT3 : Row := { small := 2, medium := 3, large := 5 }

/-- The rows of program P1's token. -/
def rowsT : Rows := { off := rowT, nl := nlT3 }

/-- The test configuration. -/
def paramsT : Params where
  offsetTable := (Vector.replicate 8 (Vector.replicate 4 rowT)).push (Vector.replicate 4 rowT8)
  litLenTable := #v[nlT, nlT, nlT, nlT3]
  maxBuf := 0x100
  hasVerify := true
  magic := defaultMagic

/-- Bytes from address `a` up. -/
def bytesFrom (a : Nat) : List Byte → Memory
  | [] => []
  | b :: bs => (a, b) :: bytesFrom (a + 1) bs

/-- A machine in configuration T with `bytes` as the whole of `BUF`, in phase `p` with the given positions. -/
def machine (bytes : List Byte) (p : Phase) (rp wp : Word) : State :=
  { State.reset with
    params := paramsT
    buf := bytesFrom 0 bytes
    bufLen := BitVec.ofNat 32 bytes.length
    wtop := BitVec.ofNat 32 bytes.length
    phase := p
    rp := rp
    wp := wp }

/-- The next state of an outcome, if it is one. -/
def stateOf : Host.Outcome State Fault Refusal → Option State
  | .next t => some t
  | .fault _ => none
  | .refused _ => none

theorem next_of_stateOf {o : Host.Outcome State Fault Refusal} (h : (stateOf o).isSome = true) : ∃ t, o = .next t := by
  rcases o with t | f | r
  · exact ⟨t, rfl⟩
  · simp [stateOf] at h
  · simp [stateOf] at h

/-- One field or read-out of the next state. -/
def seen {α : Type} (f : State → α) (o : Host.Outcome State Fault Refusal) : Option α := (stateOf o).map f

/-- `TOKEN`, at field `f` with kind `k`, with the one byte `b` left in the stream. -/
def tokenAt (f : TokenField) (k : BitVec 2) (b : Byte) : State :=
  { machine [b, 0] .token 1 2 with tokenField := f, kind := k, len := 2 }

/-- A copy with `cnt` moves left at offset `off`, writing below `wp`, over the bytes of vector W6. -/
def copying (off cnt wp : Word) : State :=
  { machine [0, 0, 0, 0, 0x62, 0x61] .copy 0 wp with off := off, cnt := cnt, len := 5, nlit := 1 }

/-- A prefix run with `cnt` moves left, in the buffer of vector W3. -/
def literals (cnt rp wp : Word) : State :=
  { machine [0x00, 0x1B, 0x41, 0, 0, 0] .prefixRun rp wp with cnt := cnt }

/-- `s` with verification on against `EXP` = `e` from address 0 up. -/
def verified (s : State) (e : List Byte) : State :=
  { s with verify := true, exp := bytesFrom 0 e, expLen := BitVec.ofNat 32 e.length }

/-! ## Ill-formed terms -/

theorem test_wf_refuses_offS : (Instr.offS 4).wf rowsT = false := by decide

theorem test_wf_refuses_offM : (Instr.offM 16).wf rowsT = false := by decide

theorem test_wf_refuses_offL : (Instr.offL 256).wf rowsT = false := by decide

theorem test_wf_refuses_nlS : (Instr.nlS 4).wf rowsT = false := by decide

theorem test_wf_refuses_nlM : (Instr.nlM 8).wf rowsT = false := by decide

theorem test_wf_refuses_nlL : (Instr.nlL 32).wf rowsT = false := by decide

/-! ## Codes written out bit by bit (spec/95 T1 to T8, M1 to M13, P6, H10) -/

theorem test_decode_ct0 : decode (.field .type) [true, false] = .ok (.ct0, [false]) := by decide

theorem test_decode_ct1 : decode (.field .type) [false, true] = .ok (.ct1, []) := by decide

theorem test_decode_ct2 : decode (.field .type) [false, false, true] = .ok (.ct2, []) := by decide

theorem test_decode_ct3 : decode (.field .type) [false, false, false, true] = .ok (.ct3, []) := by decide

theorem test_decode_ct4 :
    decode (.field .type) [false, false, false, false, true, true, false, false] = .ok (.ct4 4, []) := by decide

theorem test_decode_ct5 :
    decode (.field .type)
      [false, false, false, false, false, false, false, false, false, false, true, true, false] = .ok (.ct5 6, []) := by
  decide

theorem test_decode_offS : decode (.field (.offset rowT)) [true, false, true] = .ok (.offS 1, []) := by decide

theorem test_decode_offM :
    decode (.field (.offset rowT)) [false, true, true, false, false, false] = .ok (.offM 8, []) := by decide

theorem test_decode_offL :
    decode (.field (.offset rowT)) [false, false, false, false, false, false, false, false, false, true] =
      .ok (.offL 1, []) := by decide

theorem test_decode_nlS : decode (.field (.run nlT3)) [true, true, true] = .ok (.nlS 3, []) := by decide

theorem test_decode_nlM : decode (.field (.run nlT)) [false, true, true, false] = .ok (.nlM 2, []) := by decide

theorem test_decode_nlL :
    decode (.field (.run nlT3)) [false, false, true, false, false, false, false] = .ok (.nlL 16, []) := by decide

theorem test_decode_litb :
    decode .literal [false, true, false, false, false, false, false, true] = .ok (.litb 0x41, []) := by decide

theorem test_decode_start : decodeCtrl 5 = some (.start false true) := by decide

theorem test_decode_row_without_value_bits :
    decode (.field (.offset { small := 0, medium := 0, large := 0 })) [false, true] = .ok (.offM 0, []) := by decide

theorem test_decode_truncated : decode (.field .type) [false, false] = .error .truncated := by decide

theorem test_decode_no_start : decode .ctrl (List.replicate 32 false) = .error .notStart := by decide

theorem test_table_word_start : decodeTableWord 32 7 = some (.start true true) := by decide

theorem test_table_word_stream : decodeTableWord 8 0x80 = some .ct0 ∧ decodeTableWord 8 0 = some (.ct5 0) := by decide

theorem test_first_step_runs_stream_word :
    seen (fun t => (t.len, t.kind)) (step (State.reset.withFetchWord 8 0x40)) = some (3, 1) := by decide

theorem test_first_step_runs_ctrl_word :
    seen (fun t => (t.phase, t.irqEn)) (step { State.reset.withFetchWord 32 5 with pmode := 9 }) = some (.fault, true) := by
  decide

/-! ## Compression types: vectors T1 to T8 as steps -/

theorem test_ct0_step : seen (fun t => (t.len, t.kind, t.sr)) (step (tokenAt .type 3 0x80)) = some (2, 0, 0x01) := by decide

theorem test_ct1_step : seen (fun t => (t.len, t.kind, t.sr)) (step (tokenAt .type 0 0x40)) = some (3, 1, 0x02) := by decide

theorem test_ct2_step : seen (fun t => (t.len, t.kind, t.sr)) (step (tokenAt .type 0 0x20)) = some (4, 2, 0x04) := by decide

theorem test_ct3_step : seen (fun t => (t.len, t.kind, t.sr)) (step (tokenAt .type 0 0x1B)) = some (5, 3, 0xB8) := by decide

theorem test_ct4_step : seen (fun t => (t.len, t.kind, t.sr)) (step (tokenAt .type 0 0x0F)) = some (13, 3, 0x80) := by decide

/-- T8: the sixth 0 belongs to `X`; the stream ends inside it here, after 8 bits. -/
theorem test_ct5_starved :
    seen (fun t => (t.phase, t.faultCause, t.rp, t.sr)) (step (tokenAt .type 0 0x00)) = some (.fault, 0x11, 0, 0x80) := by
  decide

theorem test_ct5_seed_zero : seen (fun t => (t.len, t.kind, t.rp))
    (step { tokenAt .type 0 0x00 with sr := 0 }) = some (14, 3, 1) := by decide

/-! ## Modestore codes: vectors M1 to M6, M13 -/

theorem test_offS_step : seen (fun t => (t.off, t.sr)) (step (tokenAt .offset 0 0xE0)) = some (3, 0x04) := by decide

theorem test_offM_step : seen (fun t => (t.off, t.sr)) (step (tokenAt .offset 0 0x7C)) = some (19, 0x20) := by decide

theorem test_offL_value : seen State.off (exec (.offL 255) (tokenAt .offset 0 0)) = some 275 := by decide

theorem test_offL_step : seen (fun t => (t.off, t.sr)) (step { tokenAt .offset 0 0x00 with pmode := 8 }) = some (3, 0x08) := by
  decide

theorem test_nlS_step :
    seen (fun t => (t.nlit, t.cnt, t.phase)) (step (tokenAt .run 3 0xE0)) = some (3, 2, .copy) := by decide

theorem test_nlM_step :
    seen (fun t => (t.nlit, t.cnt, t.phase)) (step (tokenAt .run 0 0x40)) = some (2, 2, .copy) := by decide

theorem test_nlL_step :
    seen (fun t => (t.nlit, t.cnt, t.phase)) (step (tokenAt .run 3 0x00)) = some (12, 2, .copy) := by decide

/-- M13: the largest value of a row that fits with equality. -/
theorem test_tier_value_at_the_top :
    tierValue { small := 31, medium := 30, large := 30 } .large 0x3FFFFFFF = 0xFFFFFFFF := by decide

/-! ## Literal bytes and copies: vectors W1 to W13 -/

/-- W3. -/
theorem test_litb_step :
    seen (fun t => (t.bufByte 5, t.rp, t.wp)) (step (literals 1 3 6)) = some (0x41, 2, 5) := by decide

/-- W11: the mismatching byte is written. -/
theorem test_litb_mismatch :
    seen (fun t => (t.bufByte 2, t.wp, t.faultCause, t.mmPos, t.mmData)) (exec (.litb 0x41)
      (verified (literals 1 3 3) [0x41, 0x41, 0x42])) = some (0x41, 2, 0x21, 2, 0x4142) := by decide

/-- W6 and W7: the first step of the copy at offset 2. -/
theorem test_copy_step :
    seen (fun t => (t.bufByte 3, t.wp, t.cnt)) (step (copying 2 4 4)) = some (0x61, 3, 3) := by decide

/-- W8. -/
theorem test_copy_range :
    seen (fun t => (t.faultCause, t.wp, t.phase)) (step (copying 3 4 4)) = some (0x13, 4, .fault) := by decide

/-- W10: 0x12 is checked before 0x14. -/
theorem test_copy_order : seen State.faultCause (step (copying 0 4 0)) = some 0x12 := by decide

/-! ## START, faults, reset, registers: vectors E1 to E7, H8 to H12 -/

/-- H10. -/
theorem test_start_step :
    seen (fun t => (t.phase, t.ctrl, t.cnt)) (step { machine [1, 2] .idle 1 2 with
      prefixLen := 1, expLen := 2, host := [.regWrite 0 32 7] }) = some (.prefixRun, 6, 1) := by decide

/-- E3: 0x31 is checked before 0x32. -/
theorem test_start_order :
    seen State.faultCause (exec (.start false false) { machine [] .idle 1 0 with pmode := 9 }) = some 0x31 := by decide

/-- T9: an empty decode is DONE at its first boundary test. -/
theorem test_empty_decode : seen (fun t => (t.phase, t.sr)) (step (machine [] .prefixRun 0 0)) = some (.done, 0x80) := by decide

/-- H9. -/
theorem test_pmode_masked :
    seen State.pmode (step { machine [] .idle 0 0 with host := [.regWrite 0x1C 32 0x109] }) = some 9 := by decide

/-- H8: `SREG` after reset. -/
theorem test_sreg_after_reset :
    seen State.hostData (step { State.reset with host := [.regRead 0x20 32] }) = some 0x80 := by decide

/-- E7. -/
theorem test_reset_step :
    seen (fun t => (t.phase, t.rp, t.wp, t.sr, t.bufByte 2)) (step { literals 1 3 6 with host := [.reset] }) =
      some (.idle, 0, 0, 0x80, 0x41) := by decide

/-! ## Container preparation: vectors H1 to H7 -/

/-- The file of H3. -/
def fileH3 : List Byte := [0x44, 0x48, 0x70, 0x32, 0, 0, 0, 0x20, 0, 0, 0, 0x14, 0, 0, 0, 0, 0, 0x80, 0xAA, 0xBB]

/-- H1. -/
theorem test_short_file : detect paramsT (fileH3.take 17) = none := by decide

/-- H2. -/
theorem test_other_magic : detect paramsT (List.replicate 32 0x41) = none := by decide

/-- H3 and H5. -/
theorem test_prepare : prepare paramsT fileH3 = .ok (⟨0x44487032, 0x20, 0x14, 0, 0, 0x80⟩,
    [0x44, 0x48, 0x44, 0x48, 0x70, 0x32, 0, 0, 0, 0x20, 0, 0, 0, 0x14, 0, 0, 0, 0, 0, 0x80] ++ List.replicate 12 0) := by
  decide

/-- H4. -/
theorem test_relocate_short : relocate 5 fileH3 = fileH3 := by decide

/-- H6. -/
theorem test_packed_too_long : prepare paramsT (fileH3.set 11 30) = .error .malformedStream := by decide

/-- H7. -/
theorem test_full_too_short : prepare paramsT (fileH3.set 7 16) = .error .malformedStream := by decide

/-! ## Witnesses

For every statement with hypotheses, operands and a state that meet them all, clause by clause and at a boundary of each
range. -/

theorem witness_DecodeOfEncodeIsIdentity :
    ∀ i ∈ [Instr.ct0, .ct4 7, .ct5 255, .offS 3, .offM 15, .offL 255, .nlS 3, .nlM 7, .nlL 31, .litb 255, .start true false],
      i.wf rowsT = true := by decide

theorem witness_DecodedBitsAreTheEncoding :
    decode (.field .type) [true] = .ok (.ct0, []) ∧
    decode (.field (.offset rowsT.off)) [true, false, false] = .ok (.offS 0, []) ∧
    decode (.field (.run rowsT.nl)) [true, true, true, false] = .ok (.nlS 3, [false]) ∧
    decode .literal (List.replicate 8 true) = .ok (.litb 255, []) := by decide

theorem witness_NoBitPatternIsRejected : 33 ≤ (List.replicate 33 false).length := by decide

theorem witness_ReadByteTakesTheByteBelow :
    (machine [1, 2] .token 0 2).rp = 0 ∧
    ((machine [1, 2] .token 2 2).rp ≠ 0 ∧ (machine [1, 2] .token 2 2).rp.toNat ≤ (machine [1, 2] .token 2 2).bufLen.toNat) ∧
    (machine [1, 2] .token 1 2).rp ≠ 0 := by decide

theorem witness_ReadBitReloads :
    ((machine [1] .token 0 1).sr = 0x80 ∧ (machine [1] .token 0 1).rp = 0) ∧
    ((machine [1] .token 1 1).sr = 0x80 ∧ (machine [1] .token 1 1).rp ≠ 0 ∧
      (machine [1] .token 1 1).rp.toNat ≤ (machine [1] .token 1 1).bufLen.toNat) := by decide

theorem witness_ReadBitShifts : { machine [1] .token 1 1 with sr := 0x81 }.sr ≠ 0x80 := by decide

theorem witness_ReadBitsIsMostSignificantFirst :
    (∃ bits s', readBitList 8 (machine [0x5A] .token 1 1) = .ok (bits, s')) ∧
    ∃ e, readBitList 9 (machine [0x5A] .token 1 1) = .error e := ⟨⟨_, _, rfl⟩, ⟨_, rfl⟩⟩

theorem witness_BitsAreContiguousAcrossBytes :
    (machine [1, 2] .token 2 2).sr = 0x80 ∧ 2 ≤ (machine [1, 2] .token 2 2).rp.toNat ∧
      (machine [1, 2] .token 2 2).rp.toNat ≤ (machine [1, 2] .token 2 2).bufLen.toNat := by decide

theorem witness_SeedBitsComeFirst :
    ((0xA0 : Byte).getLsbD 5 = true ∧ ∀ j < 5, (0xA0 : Byte).getLsbD j = false) ∧
    ((0x80 : Byte).getLsbD 7 = true ∧ ∀ j < 7, (0x80 : Byte).getLsbD j = false) ∧
    (0x01 : Byte).getLsbD 0 = true ∧ { machine [] .token 0 1 with sr := 0 }.sr = 0 := by decide

theorem witness_ShiftRegisterStaysNonzero :
    (∃ b t, readBit (machine [1] .token 1 1) = .ok (b, t)) ∧
    ∃ b t, readBit { machine [1] .token 0 1 with sr := 1 } = .ok (b, t) := ⟨⟨_, _, rfl⟩, ⟨_, _, rfl⟩⟩

/-- Program P1's token: its type code, its offset code, its literal-run code. -/
theorem witness_FetchDecodesTheStreamBits :
    (∃ r s', (tokenAt .type 3 0x1B).rows = some r ∧ Instr.ct3.wf r = true ∧
      Instr.ct3.context r = .field (TokenField.type.field r) ∧
      readBitList (encode r .ct3).length (tokenAt .type 3 0x1B) = .ok (encode r .ct3, s')) ∧
    (∃ r s', (tokenAt .offset 3 0xB0).rows = some r ∧ (Instr.offS 1).wf r = true ∧
      (Instr.offS 1).context r = .field (TokenField.offset.field r) ∧
      readBitList (encode r (.offS 1)).length (tokenAt .offset 3 0xB0) = .ok (encode r (.offS 1), s')) ∧
    ∃ r s', (tokenAt .run 3 0x80).rows = some r ∧ (Instr.nlS 0).wf r = true ∧
      (Instr.nlS 0).context r = .field (TokenField.run.field r) ∧
      readBitList (encode r (.nlS 0)).length (tokenAt .run 3 0x80) = .ok (encode r (.nlS 0), s') :=
  ⟨⟨_, _, rfl, rfl, rfl, rfl⟩, ⟨_, _, rfl, rfl, rfl, rfl⟩, ⟨_, _, rfl, rfl, rfl, rfl⟩⟩

theorem witness_FetchedCodeIsInTheStream :
    ∃ r i s', (tokenAt .offset 0 0x7C).phase = .token ∧ (tokenAt .offset 0 0x7C).rows = some r ∧
      fetch (tokenAt .offset 0 0x7C) = some (.ok (i, s')) := ⟨_, _, _, rfl, rfl, rfl⟩

/-- The stream ends inside `CT`, inside `X`, and before a literal byte. -/
theorem witness_FetchFailsOnlyAtStreamEnd :
    (∃ e, fetch { tokenAt .type 0 0 with sr := 0x40, rp := 0 } = some (.error e)) ∧
    (∃ e r, fetch (tokenAt .type 0 0x00) = some (.error e) ∧ readBitList 5 (tokenAt .type 0 0x00) = .ok r) ∧
    (∃ e, fetch (literals 1 0 6) = some (.error e)) ∧ (tokenAt .type 0 0).pmode.toNat ≤ 8 :=
  ⟨⟨_, rfl⟩, ⟨_, _, rfl, rfl⟩, ⟨_, rfl⟩, by decide⟩

/-- The state a fault inside `X` leaves has the new `KIND` (spec/42 R97, R108). -/
theorem test_kind_written_before_extra_bits :
    seen (fun t => (t.phase, t.kind, t.len)) (step (tokenAt .type 0 0x00)) = some (.fault, 3, 2) := by decide

theorem witness_StepRunsTheDecodedInstruction :
    ((tokenAt .type 0 0x80).host = [] ∧ ∃ s' i, fetch (tokenAt .type 0 0x80) = some (.ok (i, s'))) ∧
    (∃ s' i, fetch { { tokenAt .type 0 0x80 with host := [.wait] } with host := [] } = some (.ok (i, s'))) ∧
    startOf (.regWrite 0 32 1) = some (.start false false) ∧
    (∃ c s', fetch (tokenAt .type 0 0x00) = some (.error (.raise c s'))) ∧
    ∃ c s', fetch { { literals 1 0 6 with host := [.wait] } with host := [] } = some (.error (.raise c s')) :=
  ⟨⟨rfl, _, _, rfl⟩, ⟨_, _, rfl⟩, rfl, ⟨_, _, rfl⟩, ⟨_, _, rfl⟩⟩

theorem witness_OffsetCodesSetOffset :
    (tokenAt .offset 0 0).pmode.toNat < 9 ∧ { tokenAt .offset 0 0 with pmode := 8 }.pmode.toNat < 9 ∧
    (3 : Word).toNat < 2 ^ rowT.small ∧ (15 : Word).toNat < 2 ^ rowT.medium ∧ (255 : Word).toNat < 2 ^ rowT.large := by decide

theorem witness_OffsetCodesStopWithoutTable : 9 ≤ { tokenAt .offset 0 0 with pmode := 9 }.pmode.toNat := by decide

theorem witness_RunCodesSetRunAndBeginCopy :
    (3 : Word).toNat < 2 ^ nlT3.small ∧ (7 : Word).toNat < 2 ^ nlT3.medium ∧ (31 : Word).toNat < 2 ^ nlT3.large := by decide

theorem witness_TierRangesPartitionTheValues :
    (3 : Word).toNat < 2 ^ rowT.small ∧ (0 : Word).toNat < 2 ^ rowT8.small ∧ (15 : Word).toNat < 2 ^ rowT.medium ∧
      (255 : Word).toNat < 2 ^ rowT.large := by decide

theorem witness_LiteralWritesOneByte :
    ((literals 1 3 6).wp ≠ 0 ∧ (literals 1 3 6).wp.toNat ≤ (literals 1 3 6).bufLen.toNat ∧
      (literals 1 3 6).verifying = false) ∧ (literals 1 3 1).wp ≠ 0 := by decide

/-- An equal byte (0x42) and a different one (0x41) at the same position. -/
theorem witness_LiteralIsVerified :
    let s := verified (literals 1 3 3) [0x41, 0x41, 0x42]
    s.wp ≠ 0 ∧ s.wp.toNat ≤ s.bufLen.toNat ∧ s.verifying = true ∧ s.wp.toNat ≤ s.expLen.toNat ∧
      s.expByte (s.wp.toNat - 1) = 0x42 ∧ s.expByte (s.wp.toNat - 1) ≠ 0x41 := by decide

theorem witness_LiteralMoveCopiesStreamByte :
    let s := literals 1 3 6
    s.host = [] ∧ s.inLiteralRun ∧ s.cnt ≠ 0 ∧ s.rp ≠ 0 ∧ s.rp.toNat ≤ s.bufLen.toNat ∧ s.wp ≠ 0 ∧
      s.wp.toNat ≤ s.bufLen.toNat ∧ s.verifying = false :=
  ⟨rfl, .inl rfl, by decide, by decide, by decide, by decide, by decide, by decide⟩

theorem witness_LiteralMoveFaults :
    ((literals 1 0 6).inLiteralRun ∧ (literals 1 0 6).cnt ≠ 0 ∧ (literals 1 0 6).rp = 0) ∧
    (literals 1 6 0).inLiteralRun ∧ (literals 1 6 0).cnt ≠ 0 ∧ (literals 1 6 0).rp ≠ 0 ∧
      (literals 1 6 0).rp.toNat ≤ (literals 1 6 0).bufLen.toNat ∧ (literals 1 6 0).wp = 0 :=
  ⟨⟨.inl rfl, by decide, rfl⟩, .inl rfl, by decide, by decide, by decide, rfl⟩

theorem witness_LiteralWithoutRoomFaults : (literals 1 3 0).wp = 0 := rfl

theorem witness_LiteralStopsOutsideMemory :
    (literals 1 3 7).bufLen.toNat < (literals 1 3 7).wp.toNat ∧
    let s := verified (literals 1 3 6) [0, 0, 0, 0, 0]
    s.wp ≠ 0 ∧ s.wp.toNat ≤ s.bufLen.toNat ∧ s.verifying = true ∧ s.expLen.toNat < s.wp.toNat := by decide

/-- A run of two moves that completes, and one of no moves. -/
theorem witness_LiteralRunLaw :
    ((literals 2 3 6).inLiteralRun ∧ (literals 2 3 6).cnt.toNat = 2 ∧ (literals 2 3 6).rp.toNat ≤ (literals 2 3 6).wp.toNat ∧
      2 ≤ (literals 2 3 6).rp.toNat ∧ (literals 2 3 6).wp.toNat ≤ (literals 2 3 6).bufLen.toNat ∧
      (literals 2 3 6).verifying = false) ∧
    (∃ t, run 2 (literals 2 3 6) = .next t ∧ t.phase = (literals 2 3 6).phase) ∧
    ∃ t, run 0 (literals 0 3 3) = .next t ∧ t.phase = (literals 0 3 3).phase :=
  ⟨⟨.inl rfl, by decide, by decide, by decide, by decide, by decide⟩, ⟨_, rfl, rfl⟩, ⟨_, rfl, rfl⟩⟩

/-- W6, W8, W9, W10. -/
theorem witness_BackrefStepRule :
    (∀ s ∈ [copying 2 4 4, copying 3 4 4, copying 0 4 4, copying 0 4 0], s.host = [] ∧ s.phase = .copy ∧ s.cnt ≠ 0) ∧
    (copying 0 4 0).wp = 0 ∧
    ((copying 0 4 4).wp ≠ 0 ∧ (copying 0 4 4).off = 0) ∧
    ((copying 3 4 4).wp ≠ 0 ∧ (copying 3 4 4).off ≠ 0 ∧
      (copying 3 4 4).wtop.toNat ≤ (copying 3 4 4).wp.toNat - 1 + (copying 3 4 4).off.toNat) ∧
    (copying 2 4 4).wp ≠ 0 ∧ (copying 2 4 4).off ≠ 0 ∧
      (copying 2 4 4).wp.toNat - 1 + (copying 2 4 4).off.toNat < (copying 2 4 4).wtop.toNat ∧
      (copying 2 4 4).wtop.toNat ≤ (copying 2 4 4).bufLen.toNat ∧ (copying 2 4 4).verifying = false := by decide

/-- The byte copied is 0x61; `EXP` agrees with it, and does not. -/
theorem witness_BackrefStepIsVerified :
    ∀ e ∈ [(0x61 : Byte), 0x62],
      let s := verified (copying 2 4 4) [0, 0, 0, e]
      s.host = [] ∧ s.phase = .copy ∧ s.cnt ≠ 0 ∧ s.wp ≠ 0 ∧ s.off ≠ 0 ∧ s.wp.toNat - 1 + s.off.toNat < s.wtop.toNat ∧
        s.wtop.toNat ≤ s.bufLen.toNat ∧ s.verifying = true ∧ s.wp.toNat ≤ s.expLen.toNat ∧
        s.bufByte (s.wp.toNat - 1 + s.off.toNat) = 0x61 ∧ s.expByte (s.wp.toNat - 1) = e := by decide

/-- An overlapping copy of three bytes at offset 2 that completes. -/
theorem witness_CopyRepeatsWithPeriodOffset :
    let s := copying 2 3 4
    s.host = [] ∧ s.phase = .copy ∧ s.cnt.toNat = 3 ∧ s.off ≠ 0 ∧ 3 ≤ s.wp.toNat ∧
      s.wp.toNat + s.off.toNat ≤ s.wtop.toNat ∧ s.wtop.toNat ≤ s.bufLen.toNat ∧ s.verifying = false ∧
      ∃ t, run 3 s = .next t ∧ t.phase = .copy :=
  ⟨rfl, rfl, rfl, by decide, by decide, by decide, by decide, by decide, _, rfl, rfl⟩

theorem witness_OffsetOneRepeatsOneByte :
    let s := copying 1 3 4
    s.host = [] ∧ s.phase = .copy ∧ s.cnt.toNat = 3 ∧ s.off = 1 ∧ ∃ t, run 3 s = .next t ∧ t.phase = .copy :=
  ⟨rfl, rfl, rfl, rfl, _, rfl, rfl⟩

/-- A copy whose first step completes and whose second step faults, with 0x12. -/
theorem witness_RangeFaultsOnlyAtFirstCopyStep :
    let s := copying 1 4 1
    s.host = [] ∧ s.phase = .copy ∧ s.cnt ≠ 0 ∧
      ∃ t u, step s = .next t ∧ t.phase = .copy ∧ t.cnt ≠ 0 ∧ step t = .next u ∧ u.phase = .fault :=
  ⟨rfl, rfl, by decide, _, _, rfl, rfl, by decide, rfl, rfl⟩

theorem witness_CopyEndBeginsLiteralRun :
    (copying 2 0 4).host = [] ∧ (copying 2 0 4).phase = .copy ∧ (copying 2 0 4).cnt = 0 := by decide

theorem witness_BoundaryTestEndsOrContinues :
    ((literals 0 3 0).inLiteralRun ∧ (literals 0 3 0).cnt = 0 ∧ (literals 0 3 0).wp = 0) ∧
    { literals 0 3 1 with phase := .literal }.inLiteralRun ∧ (literals 0 3 1).cnt = 0 ∧ (literals 0 3 1).wp ≠ 0 :=
  ⟨⟨.inl rfl, rfl, rfl⟩, .inr rfl, rfl, by decide⟩

/-- Both positions at `BUFLEN`, pack mode 8, `EXP` exactly as long as the output. -/
theorem witness_StartBeginsTheDecode :
    let s := verified { machine [1, 2] .done 2 2 with pmode := 8 } [3, 4]
    s.busy = false ∧ s.pmode.toNat ≤ 8 ∧ s.rp.toNat ≤ s.bufLen.toNat ∧ s.wp.toNat ≤ s.bufLen.toNat ∧
      s.bufLen.toNat ≤ s.params.maxBuf.toNat ∧ (true && s.params.hasVerify) = true ∧ s.wp.toNat ≤ s.expLen.toNat := by decide

theorem witness_StartChecksParameters :
    ({ machine [1] .idle 0 0 with pmode := 9 }.busy = false ∧ 8 < { machine [1] .idle 0 0 with pmode := 9 }.pmode.toNat) ∧
    ((machine [1] .fault 2 0).busy = false ∧ (machine [1] .fault 2 0).pmode.toNat ≤ 8 ∧
      (machine [1] .fault 2 0).bufLen.toNat < (machine [1] .fault 2 0).rp.toNat) ∧
    (machine [1] .done 0 2).bufLen.toNat < (machine [1] .done 0 2).wp.toNat := by decide

theorem witness_StartRefusesBrokenHostDuty :
    (let s := { machine [1] .idle 0 0 with bufLen := 0x101 }
     s.busy = false ∧ s.pmode.toNat ≤ 8 ∧ s.rp.toNat ≤ s.bufLen.toNat ∧ s.wp.toNat ≤ s.bufLen.toNat ∧
       s.params.maxBuf.toNat < s.bufLen.toNat) ∧
    let s := { machine [1, 2] .idle 2 2 with expLen := 1 }
    s.busy = false ∧ s.bufLen.toNat ≤ s.params.maxBuf.toNat ∧ s.params.hasVerify = true ∧ s.expLen.toNat < s.wp.toNat := by
  decide

theorem witness_RegisterWritesIgnoredWhileBusy :
    (literals 1 3 6).busy = true ∧ (0x3C : BitVec 6).toNat % 4 = 0 ∧
      { literals 1 3 6 with host := [.regWrite 0x3C 32 1] }.host = .regWrite 0x3C 32 1 :: [] := by decide

theorem witness_RegisterWritesSetTheirFields :
    (machine [] .idle 0 0).busy = false ∧ (machine [] .fault 0 0).busy = false ∧ (6 : Word).getLsbD 0 = false := by decide

theorem witness_RegisterReadsReturnTheirValues :
    (machine [] .idle 0 0).busy = false ∧ (machine [] .done 0 0).busy = false ∧ (machine [] .fault 0 0).busy = false := by
  decide

theorem witness_RegisterReadsHaveNoSideEffect :
    (∀ offset ∈ [(0x00 : BitVec 6), 0x04, 0x08, 0x0C, 0x10, 0x14, 0x18, 0x1C, 0x20, 0x24, 0x28, 0x2C, 0x3C],
      offset.toNat % 4 = 0) ∧ (literals 1 3 6).busy = true := by decide

theorem witness_OtherRegisterAccessesRefused : (16 ≠ 32 ∨ (0 : BitVec 6).toNat % 4 ≠ 0) ∧
    (32 ≠ 32 ∨ (0x02 : BitVec 6).toNat % 4 ≠ 0) := by decide

theorem witness_HostBufferAccesses :
    (literals 1 3 6).busy = true ∧
    let s := verified (machine [] .idle 0 0) [1, 2]
    s.busy = false ∧ (0xFF : Word).toNat < s.params.maxBuf.toNat ∧ s.params.maxBuf.toNat ≤ (0x100 : Word).toNat ∧
      s.params.hasVerify = true ∧ (1 : Word).toNat < s.expLen.toNat ∧ s.expLen.toNat ≤ (2 : Word).toNat ∧
      { s with params := { paramsT with hasVerify := false } }.params.hasVerify = false := by decide

theorem witness_InterruptLineFollowsState :
    (∃ t, exec (.start false true) (machine [1] .done 1 1) = .next t ∧ t.phase ≠ .fault) ∧
    (machine [1] .done 0 0).phase = .done ∧ (machine [1] .idle 0 0).phase ≠ .done ∧ (machine [1] .idle 0 0).phase ≠ .fault :=
  ⟨⟨_, rfl, by decide⟩, by decide⟩

/-- FAULT left by START and by reset. -/
theorem witness_FaultIsLeftOnlyByStartOrReset :
    ((machine [1] .done 0 0).host = [] ∧ (machine [1] .done 0 0).busy = false) ∧
    (∃ t, step { machine [1] .fault 1 1 with host := [.regWrite 0 32 1] } = .next t ∧ t.phase ≠ .fault) ∧
    ∃ t, step { machine [1] .fault 1 1 with host := [.reset] } = .next t ∧ t.phase ≠ .fault :=
  ⟨by decide, ⟨_, rfl, by decide⟩, ⟨_, rfl, by decide⟩⟩

/-- One change of `PHASE` for each row of the table that makes one. -/
theorem witness_PhaseChangesFollowTheTable :
    ∀ c ∈ [({ literals 1 3 6 with host := [.reset] }, Phase.idle),
        ({ machine [1] .idle 1 1 with host := [.regWrite 0 32 1] }, .prefixRun),
        ({ machine [1] .idle 2 1 with host := [.regWrite 0 32 1] }, .fault),
        (literals 0 0 0, .done), (literals 0 0 1, .token), (tokenAt .run 3 0xE0, .copy), (copying 2 0 4, .literal),
        (copying 0 1 4, .fault)],
      seen State.phase (step c.1) = some c.2 ∧ c.2 ≠ c.1.phase := by decide

/-- The start of a decode: two literals 0x61, 0x62, then CT2, OFF.S 2, NL.S 0, whose bits are 0x3A; the output is "bababa". -/
def decodeT (v : Bool) (e : Byte) : State :=
  let bytes : List Byte := [0x3A, 0x62, 0x61, 0, 0, 0]
  { machine bytes .prefixRun 3 6 with
    prefixLen := 2
    cnt := 2
    verify := v
    exp := bytesFrom 0 [0, 0, 0, e, 0x62, 0x61]
    expLen := 6
    begun := { rp := 3, sr := 0x80, len := 0, kind := 0, off := 0, nlit := 0, buf := bytesFrom 0 bytes } }

/-- The same decode six steps later: the copy of four bytes at offset 2 is about to write 0x61 at address 3. -/
def midDecode (v : Bool) (e : Byte) : State := advance 6 (decodeT v e)

/-- A state in the middle of a decode satisfies the invariant, with verification off or on, against an `EXP` that agrees with
the next byte or does not. -/
theorem midDecode_inv : ∀ c ∈ [(false, (0x61 : Byte)), (true, 0x61), (true, 0x62)], Inv (midDecode c.1 c.2) := by
  have all : ∀ c ∈ [(false, (0x61 : Byte)), (true, 0x61), (true, 0x62)],
      let s := midDecode c.1 c.2
      s.buf.wf ∧ s.exp.wf ∧ (s.rp.toNat ≤ s.bufLen.toNat ∧ s.wp.toNat ≤ s.wtop.toNat ∧ s.wtop.toNat ≤ s.bufLen.toNat ∧
        s.bufLen.toNat ≤ s.params.maxBuf.toNat) ∧ s.pmode.toNat ≤ 8 ∧ s.wtop.toNat ≤ s.expLen.toNat ∧
        (s.phase = .copy ∧ s.faultCause = 0) ∧ (s.mmPos = 0 ∧ s.mmData = 0) ∧ s.params.hasVerify = true ∧
        (2 ≤ s.len.toNat ∧ s.len.toNat ≤ 269) ∧ s.cnt.toNat ≤ s.len.toNat ∧ s = advance 6 s.decodeStart := by decide +kernel
  intro c hc
  obtain ⟨h1, h2, h3, h4, h5, h6, h7, h8, h9, h10, h11⟩ := all c hc
  exact ⟨h1, h2, fun _ => h3, fun _ => h4, fun _ _ => h5, ⟨fun _ => h6.2, fun h => by simp [h6.1] at h⟩, fun _ => h7,
    fun h => by simp [h8] at h, fun _ => h9, fun _ => h10, fun _ => ⟨6, h11⟩⟩

theorem witness_StepKeepsTheInvariant :
    Inv (midDecode false 0x61) ∧ ∃ t, step (midDecode false 0x61) = .next t :=
  ⟨midDecode_inv (false, 0x61) (by decide), next_of_stateOf (by decide +kernel)⟩

theorem witness_CoreNeverLeavesTheBuffer : Inv (midDecode false 0x61) ∧ (midDecode false 0x61).host = [] :=
  ⟨midDecode_inv (false, 0x61) (by decide), by decide +kernel⟩

/-- The boundaries of the decode, by steps and by primitives within a step: after two bits of the type code, and between the
two primitives of a literal move. -/
theorem test_boundaries :
    ((midDecode false 0x61).boundary (3, 2)).sr = 0xEA ∧ ((midDecode false 0x61).boundary (3, 2)).rp = 0 ∧
    ((midDecode false 0x61).boundary (1, 1)).rp = 1 ∧ ((midDecode false 0x61).boundary (1, 1)).wp = 5 ∧
    ((midDecode false 0x61).boundary (99, 0)).phase = .done := by decide +kernel

theorem witness_ParametersAreConstant :
    (∃ t, step (copying 2 4 4) = .next t) ∧ (copying 2 4 4).host = [] := ⟨⟨_, rfl⟩, rfl⟩

theorem witness_DecodeWritesOnlyBelowWritePosition :
    (literals 1 3 6).host = [] ∧ ∃ t, run 2 (literals 1 3 6) = .next t := ⟨rfl, _, rfl⟩

theorem witness_EveryDecodeTerminates :
    Inv (midDecode false 0x61) ∧ (midDecode false 0x61).host = [] ∧ (midDecode false 0x61).busy = true :=
  ⟨midDecode_inv (false, 0x61) (by decide), by decide +kernel, by decide +kernel⟩

/-- A step whose byte (0x61, at address 3) agrees with `EXP`, and one whose byte does not; a step that writes nothing (the end of
a token field, three steps earlier) needs no more. -/
theorem witness_VerificationDoesNotAlterTheDecode :
    (∀ e ∈ [(0x61 : Byte), 0x62], Inv (midDecode true e)) ∧
    ∀ e ∈ [(0x61 : Byte), 0x62],
      let s := midDecode true e
      s.host = [] ∧ s.params.hasVerify = true ∧ s.verify = true ∧ s.wp = 4 ∧ s.expByte 3 = e ∧
        seen (fun t => (t.wp, t.bufByte 3)) (step { s with verify := false }) = some (3, 0x61) :=
  ⟨fun e he => midDecode_inv (true, e) (by simp_all), by decide +kernel⟩

theorem witness_RelocationMovesTheHeaderBytes :
    (20 ≤ fileH3.length ∧ 5 ≤ fileH3.length) ∧
    18 ≤ fileH3.length ∧ (parseHeader fileH3).magic = paramsT.magic ∧ (parseHeader fileH3).packedLength.toNat ≤ fileH3.length ∧
      fileH3.length ≤ (parseHeader fileH3).fullLength.toNat ∧
      (parseHeader fileH3).fullLength.toNat ≤ paramsT.maxBuf.toNat := by decide

/-- Refused files, and the container of H3 with and without an expected output of its exact length. -/
theorem witness_BootSequenceBeginsTheDecode :
    ((fileH3.take 17).length < 18 ∧ (parseHeader (List.replicate 32 0x41)).magic ≠ paramsT.magic) ∧
    (18 ≤ fileH3.length ∧ (parseHeader (fileH3.set 11 30)).magic = paramsT.magic ∧
      fileH3.length < (parseHeader (fileH3.set 11 30)).packedLength.toNat) ∧
    (machine [] .idle 0 0).busy = false ∧
    ∃ h b, prepare (machine [] .idle 0 0).params fileH3 = .ok (h, b) ∧ h.packMode.toNat ≤ 8 ∧
      ∀ expected ∈ [none, some (List.replicate 32 (0 : Byte))],
        (∀ e, expected = some e →
          (machine [] .idle 0 0).params.hasVerify = true ∧ h.fullLength.toNat ≤ e.length ∧ e.length < 2 ^ 32) ∧
        { machine [] .idle 0 0 with host := bootMoves h b expected true }.host = bootMoves h b expected true := by
  refine ⟨by decide, by decide, rfl, _, _, test_prepare, by decide, ?_⟩
  intro expected he
  refine ⟨fun e hx => ?_, rfl⟩
  subst hx
  simp only [List.mem_cons, Option.some.injEq, List.not_mem_nil, or_false, reduceCtorEq, false_or] at he
  subst he
  decide

end Sys2Proof.Tests
end

/-! # What every step keeps (spec/10, spec/20): frames, the decode's writes, the invariant -/

section
/-!
SUPPORT. What the core leaves unchanged: everything outside the record of the decode (`State.decodeStart`), and the bytes of
`BUF` outside the stretch that `WP` passed.
-/

namespace Sys2Proof.Machine

/-! ## Steps of the core and of the host -/

/-- Without a move of the host a step is a step of the core. -/
theorem step_of_host_nil {s : State} (h : s.host = []) : step s = coreStep s := by
  simp only [step, h]

/-- IDLE, DONE and FAULT do nothing until the host acts (spec/60 R148). -/
theorem coreStep_of_not_busy {s : State} (h : s.busy = false) : coreStep s = .next s := by
  rcases hp : s.phase <;> simp [State.busy, Phase.busy, hp] at h <;> simp [coreStep, fetch, phaseStep, hp]

/-- A state in phase FAULT is not BUSY. -/
theorem phase_ne_fault_of_busy {s : State} (h : s.busy = true) : s.phase ≠ .fault := by
  intro hp
  simp [State.busy, Phase.busy, hp] at h

/-- Where the cursor has moved to, as one update of the state. -/
theorem CursorMoved.eq_setCursor {s u : State} (h : CursorMoved s u) :
    ∃ a b, u = s.setCursor a b ∧ a.toNat ≤ s.rp.toNat := ⟨u.rp, u.sr, h⟩

/-! ## One move of a run -/

/-- What one counted move, of a literal run or of a copy, makes of the state: a fault before the write, the write, or the write
and the mismatch found after it (spec/43 R111 to R115). -/
inductive RunMove (s t : State) : Prop
  | fault (c : Cause) (hc : c ≠ .integrityMismatch) (ht : t = s.faultEntry c)
  | written (hw : s.wp ≠ 0) (v : Byte) (ht : t = (s.putByte (s.wp - 1) v).setCnt (s.cnt - 1))
  | mismatch (hw : s.wp ≠ 0) (v e : Byte)
      (ht : t = ((s.putByte (s.wp - 1) v).setMismatch (s.wp - 1) v e).faultEntry .integrityMismatch)

/-- A counted write is such a move. -/
theorem writeByte_runMove {v : Byte} {s t : State} (h : settle (countDown (writeByte v s)) = .next t) : RunMove s t := by
  rcases settle_next h with hr | ⟨c, u, hr, rfl⟩
  · obtain ⟨u, hu, rfl⟩ := countDown_ok hr
    obtain ⟨hw, -, rfl, -⟩ := writeByte_ok hu
    exact .written hw v rfl
  · rcases writeByte_error (countDown_error hr) with ⟨-, he⟩ | ⟨-, -, he⟩ | ⟨-, -, -, he⟩ | ⟨hw, -, -, -, he⟩ <;> cases he
    · exact .fault .writeUnderflow (by decide) rfl
    · exact .mismatch hw v _ rfl

/-- A counted back-reference step is such a move. -/
theorem backrefStep_runMove {s t : State} (h : settle (countDown (backrefStep s)) = .next t) : RunMove s t := by
  rcases hb : backrefStep s with e | u
  · rw [hb] at h
    rcases backrefStep_error hb with ⟨-, rfl⟩ | ⟨-, -, rfl⟩ | ⟨-, -, -, rfl⟩ | ⟨-, -, -, -, rfl⟩ | ⟨-, -, -, -, hw⟩
    · exact .fault .writeUnderflow (by decide) (by simpa [countDown, settle, Stop.outcome] using h.symm)
    · exact .fault .backrefZero (by decide) (by simpa [countDown, settle, Stop.outcome] using h.symm)
    · exact .fault .backrefRange (by decide) (by simpa [countDown, settle, Stop.outcome] using h.symm)
    · simp [countDown, settle, Stop.outcome] at h
    · exact writeByte_runMove (hw ▸ h)
  · obtain ⟨-, -, -, hw⟩ := backrefStep_ok hb
    exact writeByte_runMove (by rw [hw, ← hb]; exact h)

/-! ## The frame of the core -/

/-- What a decode may do on the way from `s` to `t`: the record of the decode stays, both cursors fall, and the bytes changed lie
between the new `WP` and the old one (spec/10 R16, R17, R19, spec/43 R118). -/
structure Descends (s t : State) : Prop where
  record : t.decodeStart = s.decodeStart
  rp_le : t.rp.toNat ≤ s.rp.toNat
  wp_le : t.wp.toNat ≤ s.wp.toNat
  bytes : ∀ a, a < t.wp.toNat ∨ s.wp.toNat ≤ a → t.bufByte a = s.bufByte a
  form : s.buf.wf → t.buf.wf

namespace Descends

variable {s t u : State}

theorem refl (s : State) : Descends s s := ⟨rfl, le_rfl, le_rfl, fun _ _ => rfl, id⟩

theorem trans (h : Descends s t) (h' : Descends t u) : Descends s u where
  record := h'.record.trans h.record
  rp_le := h'.rp_le.trans h.rp_le
  wp_le := h'.wp_le.trans h.wp_le
  bytes a ha := by
    have hst := h.wp_le
    have htu := h'.wp_le
    rw [h'.bytes a (by omega), h.bytes a (by omega)]
  form hf := h'.form (h.form hf)

/-- A change of the registers that the record does not hold and that is no move of a cursor or of `BUF`. -/
theorem of_same (hr : t.decodeStart = s.decodeStart) (hrp : t.rp.toNat ≤ s.rp.toNat) (hwp : t.wp = s.wp)
    (hbuf : t.buf = s.buf) : Descends s t :=
  ⟨hr, hrp, by rw [hwp], fun a _ => by rw [State.bufByte, hbuf]; rfl, fun h => hbuf ▸ h⟩

/-- A byte written at `WP` - 1. -/
theorem putByte (hw : s.wp ≠ 0) (v : Byte) : Descends s (s.putByte (s.wp - 1) v) where
  record := rfl
  rp_le := le_rfl
  wp_le := by rw [putByte_wp, toNat_pred hw]; omega
  bytes a ha := by
    have hp := toNat_pos hw
    rw [putByte_wp, toNat_pred hw] at ha
    rw [bufByte_putByte, toNat_pred hw, if_neg (by omega)]
  form := putByte_wf _ _

theorem of_runMove (h : RunMove s t) : Descends s t := by
  cases h with
  | fault c hc ht => subst ht; exact of_same rfl le_rfl rfl rfl
  | written hw v ht => subst ht; exact (putByte hw v).trans (of_same rfl le_rfl rfl rfl)
  | mismatch hw v e ht => subst ht; exact (putByte hw v).trans (of_same rfl le_rfl rfl rfl)

/-! What the record holds as it stands: no step of the core changes it. -/

theorem params (h : Descends s t) : t.params = s.params := (congrArg State.params h.record :)
theorem wtop (h : Descends s t) : t.wtop = s.wtop := (congrArg State.wtop h.record :)
theorem bufLen (h : Descends s t) : t.bufLen = s.bufLen := (congrArg State.bufLen h.record :)
theorem pmode (h : Descends s t) : t.pmode = s.pmode := (congrArg State.pmode h.record :)
theorem verify (h : Descends s t) : t.verify = s.verify := (congrArg State.verify h.record :)
theorem verifyEn (h : Descends s t) : t.verifyEn = s.verifyEn := (congrArg State.verifyEn h.record :)
theorem verifying (h : Descends s t) : t.verifying = s.verifying := (congrArg State.verifying h.record :)
theorem exp (h : Descends s t) : t.exp = s.exp := (congrArg State.exp h.record :)
theorem expLen (h : Descends s t) : t.expLen = s.expLen := (congrArg State.expLen h.record :)
theorem host (h : Descends s t) : t.host = s.host := (congrArg State.host h.record :)
theorem hostData (h : Descends s t) : t.hostData = s.hostData := (congrArg State.hostData h.record :)

end Descends

/-- Every row of the phase table descends. -/
theorem CoreMove.descends {s t : State} (h : CoreMove s t) : Descends s t := by
  have hr := h.decodeStart
  cases h with
  | rest h ht => subst ht; exact .refl _
  | boundary h hc ht =>
    subst ht
    refine .of_same hr ?_ ?_ ?_ <;> unfold boundaryTest <;> split <;> simp
  | literalStarved h hc h0 ht => subst ht; exact .of_same hr le_rfl rfl rfl
  | literal h hc h0 hle ht =>
    have hread : Descends s (s.setCursor (s.rp - 1) s.sr) :=
      .of_same rfl (by rw [setCursor_rp, toNat_pred h0]; omega) rfl rfl
    exact hread.trans (.of_runMove (writeByte_runMove ht))
  | fieldStarved h u hm hsr h0 k ht =>
    obtain ⟨a, b, rfl, hle⟩ := hm.eq_setCursor
    subst ht; exact .of_same hr hle rfl rfl
  | type h hf u hm n k hlo hhi ht =>
    obtain ⟨a, b, rfl, hle⟩ := hm.eq_setCursor
    subst ht; exact .of_same hr hle rfl rfl
  | offset h hf u hm n ht =>
    obtain ⟨a, b, rfl, hle⟩ := hm.eq_setCursor
    subst ht; exact .of_same hr hle rfl rfl
  | run h hf u hm n ht =>
    obtain ⟨a, b, rfl, hle⟩ := hm.eq_setCursor
    subst ht; exact .of_same hr hle rfl rfl
  | copyEnd h hc ht => subst ht; exact .of_same hr le_rfl rfl rfl
  | copy h hc ht => exact .of_runMove (backrefStep_runMove ht)

theorem coreStep_descends {s t : State} (h : coreStep s = .next t) : Descends s t := (coreStep_next h).descends

/-- A run of the core alone descends, and stays a run of the core alone. -/
theorem run_descends {n : Nat} {s t : State} (hs : s.host = []) (h : run n s = .next t) : Descends s t := by
  induction n generalizing s with
  | zero => simp only [run, Host.Outcome.next.injEq] at h; exact h ▸ .refl s
  | succ n ih =>
    rw [run, step_of_host_nil hs] at h
    rcases hc : coreStep s with u | f | r <;> rw [hc] at h
    · have hu := coreStep_descends hc
      exact hu.trans (ih (hu.host.trans hs) h)
    · simp at h
    · simp at h

/-! ## The moves of the host -/

/-- What a move of the host other than START makes of the state (spec/44 R119, R120, R129, spec/70 R149). -/
inductive HostMoved (s t : State) : Prop
  /-- A register read, or a write ignored while BUSY: only the host's side changes. -/
  | seen (data : Word) (reads : Nat) (ht : t = s.setHost s.host data reads)
  /-- A register write. -/
  | programmed (hb : s.busy = false) (r : Reg) (v : Word) (ht : t = writeReg r v s)
  /-- A byte of `BUF` written. -/
  | bufWritten (hb : s.busy = false) (a : Nat) (v : Byte) (ht : t = { s with buf := s.buf.store a v })
  /-- A byte of `EXP` written. -/
  | expWritten (hb : s.busy = false) (a : Nat) (v : Byte) (ht : t = { s with exp := s.exp.store a v })
  /-- An `EXP` supplied. -/
  | expSupplied (hb : s.busy = false) (n : Word) (ht : t = { s with expLen := n })
  /-- Reset. -/
  | reset (ht : t = resetCore s)

theorem readReg_seen (r : Reg) (s : State) : ∃ data reads, readReg r s = s.setHost s.host data reads := by
  unfold readReg
  split <;> exact ⟨_, _, rfl⟩

theorem hostAct_next {m : HostMove} {s t : State} (h : hostAct m s = .next t) : HostMoved s t := by
  cases m with
  | wait => exact .seen s.hostData s.freeReads (Host.Outcome.next.inj h).symm
  | regRead offset width =>
    simp only [hostAct] at h
    split at h
    · obtain ⟨data, reads, hr⟩ := readReg_seen (regAt offset) s
      exact .seen data reads (by simpa [hr] using h.symm)
    · simp at h
  | regWrite offset width v =>
    simp only [hostAct] at h
    split at h
    · rw [Host.Outcome.next.injEq] at h
      split at h
      · exact .seen s.hostData s.freeReads h.symm
      · exact .programmed (by simpa using ‹¬s.busy = true›) _ v h.symm
    · simp at h
  | bufRead a =>
    obtain ⟨-, -, rfl⟩ := bufferAccess_next h
    exact .seen _ s.freeReads rfl
  | bufWrite a v =>
    obtain ⟨hb, -, rfl⟩ := bufferAccess_next h
    exact .bufWritten hb _ v rfl
  | expRead a =>
    obtain ⟨-, -, rfl⟩ := bufferAccess_next h
    exact .seen _ s.freeReads rfl
  | expWrite a v =>
    obtain ⟨hb, -, rfl⟩ := bufferAccess_next h
    exact .expWritten hb _ v rfl
  | expSupply n =>
    obtain ⟨hb, -, rfl⟩ := bufferAccess_next h
    exact .expSupplied hb n rfl
  | reset => exact .reset (by simpa [hostAct] using h.symm)

/-- A register write sets the host's registers and nothing else; `VERIFY_EN` stays 0 without the comparator (spec/10 R28 to
R39). -/
theorem writeReg_frame (r : Reg) (v : Word) (s : State) :
    ∃ verifyEn irqEn rp wp bufLen prefixLen pmode sr,
      writeReg r v s = { s with
        verifyEn := verifyEn, irqEn := irqEn, rp := rp, wp := wp, bufLen := bufLen, prefixLen := prefixLen, pmode := pmode,
        sr := sr } ∧
      (s.params.hasVerify = false → s.verifyEn = false → verifyEn = false) := by
  cases r with
  | ctrl => exact ⟨_, _, _, _, _, _, _, _, rfl, fun h _ => by simp [h]⟩
  | _ => exact ⟨_, _, _, _, _, _, _, _, rfl, fun _ h => h⟩

theorem HostMoved.params {s t : State} (h : HostMoved s t) : t.params = s.params := by
  cases h with
  | seen data reads ht => rw [ht]; rfl
  | programmed hb r v ht =>
    obtain ⟨_, _, _, _, _, _, _, _, hw, -⟩ := writeReg_frame r v s
    rw [ht, hw]
  | bufWritten hb a v ht => rw [ht]
  | expWritten hb a v ht => rw [ht]
  | expSupplied hb n ht => rw [ht]
  | reset ht => rw [ht]; rfl

theorem beginDecode_params {s t : State} (h : beginDecode s = .next t) : t.params = s.params := by
  rcases beginDecode_next h with ⟨-, rfl⟩ | ⟨-, -, rfl⟩ | ⟨-, -, -, -, rfl⟩ <;> rfl

theorem execStart_params {v q : Bool} {s t : State} (h : execStart v q s = .next t) : t.params = s.params := by
  rcases execStart_next h with ⟨-, rfl⟩ | ⟨-, hd⟩
  · rfl
  · exact (beginDecode_params hd).trans rfl

/-- No step changes the parameters (spec/10 R41). -/
theorem step_params {s t : State} (h : step s = .next t) : t.params = s.params := by
  rcases step_next h with ⟨-, hc⟩ | ⟨rest, -, hc⟩ | ⟨m, rest, -, ⟨v, q, -, hx⟩ | ⟨-, -, ha⟩⟩
  · exact (coreStep_descends hc).params
  · exact (coreStep_descends hc).params
  · exact (execStart_params hx).trans rfl
  · exact (hostAct_next ha).params

end Sys2Proof.Machine
end

section
/-! SUPPORT. What keeps the invariant. -/

namespace Sys2Proof.Machine

/-! ## The invariant of states that are not BUSY, and under another host -/

/-- While not BUSY the invariant speaks of the memories' form, the fault registers and the hard-wired bits alone. -/
theorem Inv.of_not_busy {t : State} (hb : t.busy = false) (bufForm : t.buf.wf) (expForm : t.exp.wf)
    (cause : (t.phase ≠ .fault → t.faultCause = 0) ∧ (t.phase = .fault → ∃ c : Cause, t.faultCause = c.code))
    (mismatch : t.faultCause ≠ Cause.integrityMismatch.code → t.mmPos = 0 ∧ t.mmData = 0)
    (hardwired : t.params.hasVerify = false → t.verify = false ∧ t.verifyEn = false) : Inv t where
  bufForm := bufForm
  expForm := expForm
  cause := cause
  mismatch := mismatch
  hardwired := hardwired
  positions h := by simp [hb] at h
  packMode h := by simp [hb] at h
  expected h := by simp [hb] at h
  underWay h := by simp [hb] at h
  copyLeft h := by simp [State.busy, Phase.busy, h] at hb
  length h := by rcases h with ⟨h, -⟩ | h <;> simp [State.busy, Phase.busy, h] at hb

/-- The invariant does not see the host. -/
theorem Inv.setHost {s : State} (hi : Inv s) (m : List HostMove) (d : Word) (k : Nat) : Inv (s.setHost m d k) where
  bufForm := hi.bufForm
  expForm := hi.expForm
  positions := hi.positions
  packMode := hi.packMode
  expected := hi.expected
  cause := hi.cause
  mismatch := hi.mismatch
  hardwired := hi.hardwired
  length := hi.length
  copyLeft := hi.copyLeft
  underWay hb := by
    obtain ⟨n, hn⟩ := hi.underWay hb
    exact ⟨n, by rw [decodeStart_setHost, advance_setHost, ← hn]⟩

/-! ## Steps of the core -/

/-- One more step of the core is one more step of the run from the record. -/
theorem Inv.underWay_coreStep {s t : State} (hi : Inv s) (hb : s.busy = true) (h : coreStep s = .next t) :
    ∃ n, t = advance n t.decodeStart := by
  obtain ⟨n, hn⟩ := hi.underWay hb
  have hnext : advance (n + 1) s.decodeStart = t := advance_next (hn ▸ hb) (hn ▸ h)
  exact ⟨n + 1, by rw [(coreStep_descends h).record, hnext]⟩

/-- What a step does to the fault registers: nothing, or it takes a fault, and only a mismatch sets `MM_POS` and `MM_DATA`
(spec/60 R137, R142). -/
inductive FaultChange (s t : State) : Prop
  | none (hp : t.phase ≠ .fault) (hc : t.faultCause = s.faultCause) (hpos : t.mmPos = s.mmPos) (hdata : t.mmData = s.mmData)
  | taken (c : Cause) (hp : t.phase = .fault) (hc : t.faultCause = c.code)
      (hm : c ≠ .integrityMismatch → t.mmPos = s.mmPos ∧ t.mmData = s.mmData)

theorem RunMove.faultChange {s t : State} (h : RunMove s t) (hp : s.phase ≠ .fault) : FaultChange s t := by
  cases h with
  | fault c hc ht => subst ht; exact .taken c rfl rfl fun _ => ⟨rfl, rfl⟩
  | written hw v ht => subst ht; exact .none hp rfl rfl rfl
  | mismatch hw v e ht => subst ht; exact .taken .integrityMismatch rfl rfl fun h => absurd rfl h

theorem CoreMove.faultChange {s t : State} (h : CoreMove s t) (hb : s.busy = true) : FaultChange s t := by
  have hp := phase_ne_fault_of_busy hb
  cases h with
  | rest h ht => simp [hb] at h
  | boundary h hc ht =>
    subst ht
    unfold boundaryTest
    split <;> exact .none (by simp) rfl rfl rfl
  | literalStarved h hc h0 ht => subst ht; exact .taken .readUnderflow rfl rfl fun _ => ⟨rfl, rfl⟩
  | literal h hc h0 hle ht =>
    cases (writeByte_runMove ht).faultChange hp with
    | none hp hc hpos hdata => exact .none hp hc hpos hdata
    | taken c hp hc hm => exact .taken c hp hc hm
  | fieldStarved h u hm hsr h0 k ht =>
    obtain ⟨a, b, rfl, -⟩ := hm.eq_setCursor
    subst ht; exact .taken .readUnderflow rfl rfl fun _ => ⟨rfl, rfl⟩
  | type h hf u hm n k hlo hhi ht =>
    obtain ⟨a, b, rfl, -⟩ := hm.eq_setCursor
    subst ht; exact .none hp rfl rfl rfl
  | offset h hf u hm n ht =>
    obtain ⟨a, b, rfl, -⟩ := hm.eq_setCursor
    subst ht; exact .none hp rfl rfl rfl
  | run h hf u hm n ht =>
    obtain ⟨a, b, rfl, -⟩ := hm.eq_setCursor
    subst ht; exact .none (by simp) rfl rfl rfl
  | copyEnd h hc ht => subst ht; exact .none (by simp) rfl rfl rfl
  | copy h hc ht => exact (backrefStep_runMove ht).faultChange hp

/-- The clause `cause` of the invariant after a step. -/
theorem FaultChange.cause {s t : State} (h : FaultChange s t) (h0 : s.faultCause = 0) :
    (t.phase ≠ .fault → t.faultCause = 0) ∧ (t.phase = .fault → ∃ c : Cause, t.faultCause = c.code) := by
  cases h with
  | none hp hc hpos hdata => exact ⟨fun _ => hc.trans h0, fun h => absurd h hp⟩
  | taken c hp hc hm => exact ⟨fun h => absurd hp h, fun _ => ⟨c, hc⟩⟩

/-- The clause `mismatch` of the invariant after a step. -/
theorem FaultChange.mismatch {s t : State} (h : FaultChange s t) (hs : s.mmPos = 0 ∧ s.mmData = 0)
    (ht : t.faultCause ≠ Cause.integrityMismatch.code) : t.mmPos = 0 ∧ t.mmData = 0 := by
  obtain ⟨hpos0, hdata0⟩ := hs
  cases h with
  | none hp hc hpos hdata => exact ⟨hpos.trans hpos0, hdata.trans hdata0⟩
  | taken c hp hc hm =>
    obtain ⟨hpos, hdata⟩ := hm fun h => ht (h ▸ hc)
    exact ⟨hpos.trans hpos0, hdata.trans hdata0⟩

/-- The two clauses of the invariant on `LEN` and the moves of a copy that are left (spec/10 R21, spec/42 R107). -/
def State.lengthFits (s : State) : Prop :=
  ((s.phase = .token ∧ s.tokenField ≠ .type) ∨ s.phase = .copy → 2 ≤ s.len.toNat ∧ s.len.toNat ≤ 269) ∧
    (s.phase = .copy → s.cnt.toNat ≤ s.len.toNat)

/-- Where no length is in use. -/
theorem State.lengthFits_of_unused {s : State} (ht : s.phase = .token → s.tokenField = .type) (hc : s.phase ≠ .copy) :
    s.lengthFits :=
  ⟨fun h => h.elim (fun ⟨hp, hf⟩ => absurd (ht hp) hf) fun h => absurd h hc, fun h => absurd h hc⟩

theorem Inv.lengthFits {s : State} (hi : Inv s) : s.lengthFits := ⟨hi.length, hi.copyLeft⟩

/-- One move of a run keeps a length that fits: it counts down, or ends in FAULT. -/
theorem RunMove.lengthFits {s t : State} (h : RunMove s t) (hs : s.lengthFits) (hcnt : s.cnt ≠ 0) : t.lengthFits := by
  cases h with
  | fault c hc ht => subst ht; exact State.lengthFits_of_unused (by simp) (by simp)
  | written hw v ht =>
    subst ht
    refine ⟨hs.1, fun hp => ?_⟩
    have hle := hs.2 hp
    rw [setCnt_cnt, toNat_pred hcnt]
    exact (Nat.sub_le _ 1).trans hle
  | mismatch hw v e ht => subst ht; exact State.lengthFits_of_unused (by simp) (by simp)

/-- A step of the core keeps a length that fits. -/
theorem CoreMove.lengthFits {s t : State} (h : CoreMove s t) (hs : s.lengthFits) : t.lengthFits := by
  cases h with
  | rest h ht => exact ht ▸ hs
  | boundary h hc ht =>
    subst ht
    unfold boundaryTest
    split <;> exact State.lengthFits_of_unused (by simp) (by simp)
  | literalStarved h hc h0 ht => subst ht; exact State.lengthFits_of_unused (by simp) (by simp)
  | literal h hc h0 hle ht => exact (writeByte_runMove ht).lengthFits hs hc
  | fieldStarved h u hm hsr h0 k ht => subst ht; exact State.lengthFits_of_unused (by simp) (by simp)
  | type h hf u hm n k hlo hhi ht =>
    obtain ⟨a, b, rfl, -⟩ := hm.eq_setCursor
    subst ht; exact ⟨fun _ => ⟨hlo, hhi⟩, fun hp => by simp [h] at hp⟩
  | offset h hf u hm n ht =>
    obtain ⟨a, b, rfl, -⟩ := hm.eq_setCursor
    subst ht; exact ⟨fun _ => hs.1 (.inl ⟨h, by simp [hf]⟩), fun hp => by simp [h] at hp⟩
  | run h hf u hm n ht =>
    obtain ⟨a, b, rfl, -⟩ := hm.eq_setCursor
    subst ht; exact ⟨fun _ => hs.1 (.inl ⟨h, by simp [hf]⟩), fun _ => le_rfl⟩
  | copyEnd h hc ht => subst ht; exact State.lengthFits_of_unused (by simp) (by simp)
  | copy h hc ht => exact (backrefStep_runMove ht).lengthFits hs hc

/-- A step of the core while BUSY keeps the invariant: the positions only fall, what START checked stays, and the run from the
record is one step longer. -/
theorem coreStep_busy_keeps_inv {s t : State} (hi : Inv s) (hb : s.busy = true) (h : coreStep s = .next t) : Inv t := by
  have hm := coreStep_next h
  have hd := hm.descends
  have hf := hm.faultChange hb
  have h0 : s.faultCause = 0 := hi.cause.1 (phase_ne_fault_of_busy hb)
  obtain ⟨hlen, hleft⟩ := hm.lengthFits hi.lengthFits
  exact {
    bufForm := hd.form hi.bufForm
    expForm := hd.exp ▸ hi.expForm
    positions := fun _ => by
      obtain ⟨hrp, hwp, htop, hmax⟩ := hi.positions hb
      rw [hd.bufLen, hd.wtop, hd.params]
      exact ⟨hd.rp_le.trans hrp, hd.wp_le.trans hwp, htop, hmax⟩
    packMode := fun _ => hd.pmode ▸ hi.packMode hb
    expected := fun _ hv => by
      rw [hd.wtop, hd.expLen]
      exact hi.expected hb (hd.verifying ▸ hv)
    cause := hf.cause h0
    mismatch := hf.mismatch (hi.mismatch (by rw [h0]; decide))
    hardwired := by
      rw [hd.params, hd.verify, hd.verifyEn]
      exact hi.hardwired
    length := hlen
    copyLeft := hleft
    underWay := fun _ => hi.underWay_coreStep hb h }

theorem coreStep_keeps_inv {s t : State} (hi : Inv s) (h : coreStep s = .next t) : Inv t := by
  by_cases hb : s.busy = true
  · exact coreStep_busy_keeps_inv hi hb h
  · rw [coreStep_of_not_busy (by simpa using hb), Host.Outcome.next.injEq] at h
    exact h ▸ hi

/-! ## START -/

/-- The position check of START, as it passes (spec/60 R139). -/
theorem positionBad_eq_false {s : State} (h : s.positionBad = false) :
    s.rp.toNat ≤ s.bufLen.toNat ∧ s.wp.toNat ≤ s.bufLen.toNat := by
  simpa [State.positionBad, BitVec.le_def] using h

/-- What START has done before its checks, as far as the invariant speaks of it. -/
structure Armed (s : State) : Prop where
  bufForm : s.buf.wf
  expForm : s.exp.wf
  cause : s.faultCause = 0
  mmPos : s.mmPos = 0
  mmData : s.mmData = 0
  hardwired : s.params.hasVerify = false → s.verify = false ∧ s.verifyEn = false

theorem Inv.armed {s : State} (hi : Inv s) (v q : Bool) : Armed (s.setCtrl v q).armed where
  bufForm := hi.bufForm
  expForm := hi.expForm
  cause := rfl
  mmPos := rfl
  mmData := rfl
  hardwired h := by
    have h' : s.params.hasVerify = false := h
    simp [State.verifyEnabled, h']

/-- A START whose checks fail. -/
theorem Armed.faultEntry_inv {s : State} (ha : Armed s) (c : Cause) : Inv (s.faultEntry c) :=
  .of_not_busy rfl ha.bufForm ha.expForm ⟨fun h => absurd rfl h, fun _ => ⟨c, rfl⟩⟩ (fun _ => ⟨ha.mmPos, ha.mmData⟩)
    ha.hardwired

/-- A START whose checks pass: the decode begins at its own record. -/
theorem Armed.launched_inv {s : State} (ha : Armed s) (hm : s.pmode.toNat ≤ 8) (hp : s.positionBad = false)
    (hmax : s.bufLen.toNat ≤ s.params.maxBuf.toNat) (he : s.verifying = true → s.wp.toNat ≤ s.expLen.toNat) :
    Inv s.launched where
  bufForm := ha.bufForm
  expForm := ha.expForm
  positions _ := by
    obtain ⟨hrp, hwp⟩ := positionBad_eq_false hp
    exact ⟨hrp, le_rfl, hwp, hmax⟩
  packMode _ := hm
  expected _ := he
  cause := ⟨fun _ => ha.cause, fun h => by simp at h⟩
  mismatch _ := ⟨ha.mmPos, ha.mmData⟩
  hardwired := ha.hardwired
  length h := by simp at h
  copyLeft h := by simp at h
  underWay _ := ⟨0, by simp [advance, State.decodeStart, State.launched, State.snapshot, ha.cause, ha.mmPos, ha.mmData]⟩

theorem execStart_keeps_inv {v q : Bool} {s t : State} (hi : Inv s) (h : execStart v q s = .next t) : Inv t := by
  have ha := hi.armed v q
  rcases execStart_next h with ⟨-, rfl⟩ | ⟨-, hd⟩
  · exact hi
  · rcases beginDecode_next hd with ⟨-, rfl⟩ | ⟨-, -, rfl⟩ | ⟨hm, hp, hmax, he, rfl⟩
    · exact ha.faultEntry_inv _
    · exact ha.faultEntry_inv _
    · exact ha.launched_inv hm hp hmax he

/-! ## The other moves of the host -/

theorem resetCore_inv {s : State} (hi : Inv s) : Inv (resetCore s) :=
  .of_not_busy rfl hi.bufForm hi.expForm ⟨fun _ => rfl, fun h => by simp [resetCore, State.reset] at h⟩
    (fun _ => ⟨rfl, rfl⟩) (fun _ => ⟨rfl, rfl⟩)

theorem writeReg_inv {s : State} (hi : Inv s) (hb : s.busy = false) (r : Reg) (v : Word) : Inv (writeReg r v s) := by
  obtain ⟨_, _, _, _, _, _, _, _, hw, hen⟩ := writeReg_frame r v s
  rw [hw]
  exact .of_not_busy hb hi.bufForm hi.expForm hi.cause hi.mismatch fun h => by
    obtain ⟨hverify, hverifyEn⟩ := hi.hardwired h
    exact ⟨hverify, hen h hverifyEn⟩

theorem HostMoved.keeps_inv {s t : State} (hi : Inv s) (h : HostMoved s t) : Inv t := by
  cases h with
  | seen data reads ht => exact ht ▸ hi.setHost _ _ _
  | programmed hb r v ht => exact ht ▸ writeReg_inv hi hb r v
  | bufWritten hb a v ht =>
    exact ht ▸ .of_not_busy hb (Memory.store_wf a v hi.bufForm) hi.expForm hi.cause hi.mismatch hi.hardwired
  | expWritten hb a v ht =>
    exact ht ▸ .of_not_busy hb hi.bufForm (Memory.store_wf a v hi.expForm) hi.cause hi.mismatch hi.hardwired
  | expSupplied hb n ht => exact ht ▸ .of_not_busy hb hi.bufForm hi.expForm hi.cause hi.mismatch hi.hardwired
  | reset ht => exact ht ▸ resetCore_inv hi

/-- Every step, of the core or of the host, keeps the invariant. -/
theorem step_keeps_inv {s t : State} (hi : Inv s) (h : step s = .next t) : Inv t := by
  have hhost : ∀ rest, Inv { s with host := rest } := fun rest => hi.setHost rest s.hostData s.freeReads
  rcases step_next h with ⟨-, hc⟩ | ⟨rest, -, hc⟩ | ⟨m, rest, -, ⟨v, q, -, hx⟩ | ⟨-, -, ha⟩⟩
  · exact coreStep_keeps_inv hi hc
  · exact coreStep_keeps_inv (hhost rest) hc
  · exact execStart_keeps_inv (hhost rest) hx
  · exact (hostAct_next ha).keeps_inv (hhost rest)

end Sys2Proof.Machine
end

section
/-! The statements settled: O52, O55, O56. -/

open Sys2Proof.Machine

namespace Sys2Proof.Proofs

/-- Settles O52: the host's moves and START from what they write, a step of the core row by row of the phase table. -/
theorem stepKeepsTheInvariant : Obligations.StepKeepsTheInvariant :=
  fun _ _ hi h => step_keeps_inv hi h

/-- Settles O55: by the host's moves for the parameters, and by the frame of the core for `EXP`. -/
theorem parametersAreConstant : Obligations.ParametersAreConstant := by
  intro s t h
  refine ⟨step_params h, fun hs => ?_⟩
  have hd := coreStep_descends (step_of_host_nil hs ▸ h)
  exact ⟨hd.exp, hd.expLen, hd.hostData⟩

/-- Settles O56, by induction on the number of steps (`run_descends`). -/
theorem decodeWritesOnlyBelowWritePosition : Obligations.DecodeWritesOnlyBelowWritePosition := by
  intro n s t hs h
  have hd := run_descends hs h
  exact ⟨hd.wp_le, hd.rp_le, hd.wtop, hd.bufLen, hd.bytes⟩

end Sys2Proof.Proofs
end

/-! # Memory accesses (spec/20): the core stays inside its memories, and the register window -/

section
/-!
SUPPORT. Where the core's accesses fall: a byte of `BUF`, of `EXP` or a table row that does not exist stops a primitive, and in
a state whose positions lie in the prepared buffer none is met.
-/

namespace Sys2Proof.Machine

/-! ## Where a write stops -/

/-- A write above `BUFLEN` stops (spec/20 R44). -/
theorem writeByte_of_bufLen_lt {s : State} (v : Byte) (h : s.bufLen.toNat < s.wp.toNat) :
    writeByte v s = .error (.halt .bufAddress) := by
  have h0 : s.wp ≠ 0 := fun h0 => by simp [h0] at h
  have hlt : ¬ s.wp - 1 < s.bufLen := by
    rw [BitVec.lt_def, toNat_pred h0]
    omega
  rw [writeByte, if_neg h0, if_neg hlt]

/-- A verified write above the supplied `EXP` stops (spec/20 R45). -/
theorem writeByte_of_expLen_lt {s : State} (v : Byte) (h0 : s.wp ≠ 0) (hle : s.wp.toNat ≤ s.bufLen.toNat)
    (hv : s.verifying = true) (h : s.expLen.toNat < s.wp.toNat) : writeByte v s = .error (.halt .expAddress) := by
  have hlt : s.wp - 1 < s.bufLen := by
    rw [BitVec.lt_def, toNat_pred h0]
    omega
  have he : ¬ s.wp - 1 < (s.putByte (s.wp - 1) v).expLen := by
    rw [BitVec.lt_def, toNat_pred h0, putByte_expLen]
    omega
  rw [writeByte, if_neg h0, if_pos hlt, if_pos hv, verifyCompare, if_neg he]

/-- LITB is a counted write (spec/43 R113). -/
theorem exec_litb (b : Byte) (s : State) : exec (.litb b) s = settle (countDown (writeByte b s)) := rfl

/-! ## Where no primitive stops -/

/-- Every address the core can form lies in a memory or a table that exists: the positions in the prepared buffer, the verified
output in the supplied `EXP`, the pack mode in its table (spec/20 R44, R45, spec/60 R138). -/
structure Addressable (s : State) : Prop where
  rp_le : s.rp.toNat ≤ s.bufLen.toNat
  wp_le : s.wp.toNat ≤ s.bufLen.toNat
  wtop_le : s.wtop.toNat ≤ s.bufLen.toNat
  expected : s.verifying = true → s.wp.toNat ≤ s.expLen.toNat
  pmode_le : s.pmode.toNat ≤ 8

/-- The invariant says so while BUSY. -/
theorem Inv.addressable {s : State} (hi : Inv s) (hb : s.busy = true) : Addressable s := by
  obtain ⟨hrp, hwp, htop, -⟩ := hi.positions hb
  exact ⟨hrp, hwp.trans htop, htop, fun hv => hwp.trans (hi.expected hb hv), hi.packMode hb⟩

/-- Reading the stream keeps it so: the cursor only falls. -/
theorem Addressable.of_cursorMoved {s u : State} (ha : Addressable s) (h : CursorMoved s u) : Addressable u := by
  obtain ⟨a, b, rfl, hle⟩ := h.eq_setCursor
  exact ⟨hle.trans ha.rp_le, ha.wp_le, ha.wtop_le, ha.expected, ha.pmode_le⟩

/-- A completed `readByte()` moves the cursor. -/
theorem readByte_moves {s t : State} {b : Byte} (h : readByte s = .ok (b, t)) : CursorMoved s t := by
  obtain ⟨h0, -, -, rfl⟩ := readByte_ok h
  refine ⟨rfl, ?_⟩
  rw [setCursor_rp, toNat_pred h0]
  exact Nat.sub_le _ 1

namespace Addressable

variable {s : State} (ha : Addressable s)
include ha

theorem readByte_ne_halt (f : Fault) : readByte s ≠ .error (.halt f) := by
  intro h
  rcases readByte_error h with ⟨-, he⟩ | ⟨hlt, -⟩
  · cases he
  · exact absurd ha.rp_le (Nat.not_le.mpr hlt)

theorem writeByte_ne_halt (v : Byte) (f : Fault) : writeByte v s ≠ .error (.halt f) := by
  intro h
  rcases writeByte_error h with ⟨-, he⟩ | ⟨-, hlt, -⟩ | ⟨-, hv, hlt, -⟩ | ⟨-, -, -, -, he⟩
  · cases he
  · exact absurd ha.wp_le (Nat.not_le.mpr hlt)
  · exact absurd (ha.expected hv) (Nat.not_le.mpr hlt)
  · cases he

/-- The range check keeps the source byte below `WTOP` (spec/43 R115). -/
theorem backrefStep_ne_halt (f : Fault) : backrefStep s ≠ .error (.halt f) := by
  intro h
  rcases backrefStep_error h with ⟨-, he⟩ | ⟨-, -, he⟩ | ⟨-, -, -, he⟩ | ⟨-, -, hr, hlt, -⟩ | ⟨-, -, -, -, hw⟩
  · cases he
  · cases he
  · cases he
  · exact absurd (hr.trans_le ha.wtop_le) (Nat.not_lt.mpr hlt)
  · exact ha.writeByte_ne_halt _ f hw

theorem offRow_ne_none : s.offRow ≠ none := Option.isSome_iff_ne_none.mp (offRow_isSome ha.pmode_le)

theorem fetchField_ne_halt (f : Fault) : fetchField s ≠ .error (.halt f) := by
  intro h
  rcases fetchField_error h with ⟨u, hm, -, ⟨-, k, he⟩ | ⟨hlt, -⟩⟩ | ⟨hr, -⟩
  · cases he
  · exact absurd (ha.of_cursorMoved hm).rp_le (Nat.not_le.mpr hlt)
  · exact ha.offRow_ne_none hr

end Addressable

/-! ## Where every step of the core completes -/

/-- A counted move that meets no address outside completes, or takes the fault it raises. -/
theorem settle_countDown_completes {r : Except Stop State} (h : ∀ f, r ≠ .error (.halt f)) :
    ∃ t, settle (countDown r) = .next t := by
  rcases r with (⟨c, u⟩ | f) | u
  · exact ⟨_, rfl⟩
  · exact absurd rfl (h f)
  · exact ⟨_, rfl⟩

theorem chooseOffset_completes {t : Tier} {v : Word} {s : State} (h : s.offRow ≠ none) :
    ∃ u, chooseOffset t v s = .next u := by
  obtain ⟨row, hr⟩ := Option.ne_none_iff_exists'.mp h
  exact ⟨s.setOffset (tierValue row t v), by rw [chooseOffset, hr]⟩

namespace Addressable

variable {s : State} (ha : Addressable s)
include ha

/-- A step of a literal run: its byte is read and written, or the run is at its end. -/
theorem coreStep_literalRun_completes (h : s.inLiteralRun) : ∃ t, coreStep s = .next t := by
  by_cases hc : s.cnt = 0
  · exact ⟨boundaryTest s, by rcases h with h | h <;> simp [coreStep, fetch, h, phaseStep, hc]⟩
  · rw [coreStep, fetch_literalRun h hc, fetchLiteral]
    rcases hb : readByte s with (⟨c, u⟩ | f) | ⟨b, u⟩
    · exact ⟨_, rfl⟩
    · exact absurd hb (ha.readByte_ne_halt f)
    · have hu := ha.of_cursorMoved (readByte_moves hb)
      exact settle_countDown_completes (hu.writeByte_ne_halt b)

/-- A token field: whichever code is fetched has its effect. -/
theorem coreStep_token_completes (h : s.phase = .token) : ∃ t, coreStep s = .next t := by
  simp only [coreStep, fetch, h]
  rcases hf : fetchField s with (⟨c, u⟩ | f) | ⟨i, u⟩
  · exact ⟨_, rfl⟩
  · exact absurd hf (ha.fetchField_ne_halt f)
  · obtain ⟨hm, ⟨-, hi⟩ | ⟨-, x, v, rfl⟩ | ⟨-, x, v, rfl⟩⟩ := fetchField_ok hf
    · obtain ⟨n, k, -, -, he⟩ := exec_type hi u
      exact ⟨_, he⟩
    · simp only [exec_offset]
      exact chooseOffset_completes (ha.of_cursorMoved hm).offRow_ne_none
    · exact ⟨_, (exec_run x v u).trans (chooseRun_next x v u)⟩

theorem coreStep_copy_completes (h : s.phase = .copy) : ∃ t, coreStep s = .next t := by
  have hs : coreStep s = copyStep s := by simp only [coreStep, fetch, h, phaseStep]
  rw [hs, copyStep]
  split
  · exact ⟨_, rfl⟩
  · exact settle_countDown_completes ha.backrefStep_ne_halt

end Addressable

/-- From a state that meets the invariant the core has a next state. -/
theorem Inv.coreStep_completes {s : State} (hi : Inv s) : ∃ t, coreStep s = .next t := by
  rcases hb : s.busy with _ | _
  · exact ⟨s, coreStep_of_not_busy hb⟩
  · have ha := hi.addressable hb
    cases hp : s.phase with
    | prefixRun => exact ha.coreStep_literalRun_completes (.inl hp)
    | token => exact ha.coreStep_token_completes hp
    | copy => exact ha.coreStep_copy_completes hp
    | literal => exact ha.coreStep_literalRun_completes (.inr hp)
    | idle | done | fault => simp [State.busy, Phase.busy, hp] at hb

end Sys2Proof.Machine
end

section
/-! SUPPORT. The host's accesses to the register window (spec/20 R52 to R54, spec/44 R119). -/

namespace Sys2Proof.Machine

variable {s : State} {offset : BitVec 6} {width : Nat} {rest : List HostMove}

/-! ## Which accesses are taken -/

theorem regAccessOk_of_aligned (h : offset.toNat % 4 = 0) : regAccessOk offset 32 = true := by simp [regAccessOk, h]

theorem regAccessOk_eq_false (h : width ≠ 32 ∨ offset.toNat % 4 ≠ 0) : regAccessOk offset width = false := by
  rcases h with h | h <;> simp [regAccessOk, h]

/-- A register read of an aligned word. -/
theorem step_regRead (h : offset.toNat % 4 = 0) :
    step { s with host := .regRead offset 32 :: rest } = .next (readReg (regAt offset) { s with host := rest }) :=
  if_pos (regAccessOk_of_aligned h)

/-- A register read that is not of an aligned word. -/
theorem step_regRead_refused (h : regAccessOk offset width = false) :
    step { s with host := .regRead offset width :: rest } = .refused .registerAccess := by
  simp [step, hostStep, startOf, hostAct, h]

/-- A register write that is not of an aligned word: it is no START either. -/
theorem step_regWrite_refused {v : Word} (h : regAccessOk offset width = false) :
    step { s with host := .regWrite offset width v :: rest } = .refused .registerAccess := by
  simp [step, hostStep, startOf, hostAct, h]

/-! ## What a read made while BUSY returns -/

/-- The aligned offsets above `MM_DATA` hold no register (spec/10 R27, R39). -/
theorem regAt_unmapped (h : offset ∈ [(0x2C : BitVec 6), 0x30, 0x34, 0x38, 0x3C]) : regAt offset = .none := by
  revert offset
  decide

theorem readReg_hostData_of_busy (hb : s.busy = true) (r : Reg) :
    (readReg r s).hostData = (s.freeRead r).getD (s.regValue r) := by
  rcases hr : s.freeRead r with _ | v <;> simp [readReg, hb, hr]

/-- `STATUS` reads BUSY (spec/10 R29). -/
theorem stateCode_of_busy (hb : s.busy = true) : s.phase.stateCode = 1 := by
  cases hp : s.phase with
  | prefixRun | token | copy | literal => rfl
  | idle | done | fault => simp [State.busy, Phase.busy, hp] at hb

/-- `CTRL` as a number: `VERIFY_EN` in bit 1, `IRQ_EN` in bit 2 (spec/10 R28). -/
theorem ctrl_eq_ofNat (s : State) :
    s.ctrl = BitVec.ofNat 32 (2 * (s.verifyEn && s.params.hasVerify).toNat + 4 * s.irqEn.toNat) := by
  unfold State.ctrl State.verifyEnabled
  cases s.verifyEn && s.params.hasVerify <;> cases s.irqEn <;> rfl

end Sys2Proof.Machine
end

section
/-! The statements settled: O54, O28, O43, O44. -/

open Sys2Proof.Machine

namespace Sys2Proof.Proofs

/-- Settles O54: while BUSY the invariant makes every address the core can form exist (`Inv.addressable`), so each row of the
phase table completes; the other states rest. -/
theorem coreNeverLeavesTheBuffer : Obligations.CoreNeverLeavesTheBuffer := by
  intro s hi hs
  rw [step_of_host_nil hs]
  exact hi.coreStep_completes

/-- Settles O28, by the two stops of `writeByte`. -/
theorem literalStopsOutsideMemory : Obligations.LiteralStopsOutsideMemory := by
  intro s b
  refine ⟨fun h => ?_, fun h0 hle hv h => ?_⟩
  · rw [exec_litb, writeByte_of_bufLen_lt b h]
    rfl
  · rw [exec_litb, writeByte_of_expLen_lt b h0 hle hv h]
    rfl

/-- Settles O43: a read is one `readReg`, whose frame is `readReg_seen` and whose value while BUSY is that of
`readReg_hostData_of_busy`, register by register. -/
theorem registerReadsHaveNoSideEffect : Obligations.RegisterReadsHaveNoSideEffect := by
  intro s offset rest hal
  refine ⟨_, step_regRead hal, ?_, fun hb => ?_⟩
  · obtain ⟨data, reads, hr⟩ := readReg_seen (regAt offset) { s with host := rest }
    rw [hr]
    rfl
  · have hdata := readReg_hostData_of_busy (s := { s with host := rest }) hb (regAt offset)
    refine ⟨?_, ?_, ?_, ?_, ?_, ?_, ?_, ?_, ?_, ?_, ?_, fun hmem => ?_⟩
    · rintro rfl; exact hdata.trans (ctrl_eq_ofNat s)
    · rintro rfl; exact hdata.trans (stateCode_of_busy hb)
    · rintro rfl; exact hdata.trans (BitVec.ofNat_toNat 32 s.faultCause).symm
    · rintro rfl; exact ⟨_, hdata⟩
    · rintro rfl; exact ⟨_, hdata⟩
    · rintro rfl; exact hdata
    · rintro rfl; exact hdata
    · rintro rfl; exact hdata.trans (BitVec.ofNat_toNat 32 s.pmode).symm
    · rintro rfl; exact ⟨_, hdata.trans (BitVec.ofNat_toNat 32 _).symm⟩
    · rintro rfl; exact hdata
    · rintro rfl; exact hdata.trans (BitVec.ofNat_toNat 32 s.mmData).symm
    · rw [regAt_unmapped hmem] at hdata ⊢
      exact hdata

/-- Settles O44: such an access is refused whether it reads or writes. -/
theorem otherRegisterAccessesRefused : Obligations.OtherRegisterAccessesRefused := by
  intro s offset width v rest h
  have hok := regAccessOk_eq_false h
  exact ⟨step_regRead_refused hok, step_regWrite_refused hok⟩

end Sys2Proof.Proofs
end

/-! # The encoding (spec/30): the decoder reads exactly the encodings, over any source of bits -/

section
/-!
SUPPORT. Bit strings and the values they stand for; a source that delivers a bit string; and one equivalence per reader of
Decode.lean: it answers with a value exactly when the source delivers that value's code.
-/

namespace Sys2Proof

open Machine (bitsValue)

/-! ## Bit strings and their values -/

theorem foldl_bits (w : List Bool) (a : Nat) :
    w.foldl (fun v b => 2 * v + b.toNat) a = a * 2 ^ w.length + bitsValue w := by
  induction w generalizing a with
  | nil => simp [bitsValue]
  | cons b w ih =>
    simp only [bitsValue, List.foldl_cons, List.length_cons] at ih ⊢
    rw [ih, ih (2 * 0 + _)]
    ring

@[simp] theorem bitsValue_nil : bitsValue [] = 0 := rfl

theorem bitsValue_cons (b : Bool) (w : List Bool) : bitsValue (b :: w) = 2 ^ w.length * b.toNat + bitsValue w := by
  rw [bitsValue, List.foldl_cons, foldl_bits]
  ring

theorem bitsValue_lt (w : List Bool) : bitsValue w < 2 ^ w.length := by
  induction w with
  | nil => simp
  | cons b w ih =>
    have hb := Nat.mul_le_mul_left (2 ^ w.length) (Bool.toNat_le b)
    rw [bitsValue_cons, List.length_cons, Nat.pow_succ]
    omega

theorem bitsValue_msbBits (n v : Nat) : bitsValue (msbBits n v) = v % 2 ^ n := by
  induction n with
  | zero => simp [msbBits, Nat.mod_one]
  | succ n ih => rw [msbBits, bitsValue_cons, length_msbBits, ih, Nat.toNat_testBit, Nat.mod_pow_succ, Nat.add_comm]

theorem msbBits_congr {n x y : Nat} (h : ∀ k < n, x.testBit k = y.testBit k) : msbBits n x = msbBits n y := by
  induction n with
  | zero => rfl
  | succ n ih => rw [msbBits, msbBits, h n n.lt_succ_self, ih fun k hk => h k (hk.trans n.lt_succ_self)]

theorem msbBits_bitsValue (w : List Bool) : msbBits w.length (bitsValue w) = w := by
  induction w with
  | nil => rfl
  | cons b w ih =>
    have hbit := Nat.testBit_two_pow_mul_add b.toNat (bitsValue_lt w)
    rw [bitsValue_cons, List.length_cons, msbBits]
    congr 1
    · rw [hbit]
      cases b <;> simp
    · exact (msbBits_congr fun k hk => by rw [hbit, if_pos hk]).trans ih

/-- A bit string that is long enough begins with the `n` bits of some value. -/
theorem exists_msbBits_prefix {n : Nat} {bits : List Bool} (h : n ≤ bits.length) :
    ∃ x < 2 ^ n, ∃ rest, bits = msbBits n x ++ rest := by
  have hlen : (bits.take n).length = n := List.length_take_of_le h
  refine ⟨bitsValue (bits.take n), by simpa only [hlen] using bitsValue_lt (bits.take n), bits.drop n, ?_⟩
  have hw := msbBits_bitsValue (bits.take n)
  rw [hlen] at hw
  rw [hw, List.take_append_drop]

/-! ## What a source delivers -/

/-- From `st` the source delivers the bits `w`, one after the other, and then stands at `st'`. -/
def Delivers {ε σ : Type} (next : BitSource ε σ) : List Bool → σ → σ → Prop
  | [], st, st' => st' = st
  | b :: w, st, st' => ∃ mid, next st = .ok (b, mid) ∧ Delivers next w mid st'

section
variable {ε σ : Type} {next : BitSource ε σ} {st st' : σ}

@[simp] theorem delivers_nil : Delivers next [] st st' ↔ st' = st := Iff.rfl

theorem delivers_cons {b : Bool} {w : List Bool} :
    Delivers next (b :: w) st st' ↔ ∃ mid, next st = .ok (b, mid) ∧ Delivers next w mid st' := Iff.rfl

theorem delivers_append {u w : List Bool} :
    Delivers next (u ++ w) st st' ↔ ∃ mid, Delivers next u st mid ∧ Delivers next w mid st' := by
  induction u generalizing st with
  | nil => simp
  | cons b u ih =>
    simp only [List.cons_append, delivers_cons, ih]
    constructor
    · rintro ⟨m, hm, m', hu, hw⟩
      exact ⟨m', ⟨m, hm, hu⟩, hw⟩
    · rintro ⟨m', ⟨m, hm, hu⟩, hw⟩
      exact ⟨m, hm, m', hu, hw⟩

end

/-- A list of bits delivers what it begins with. -/
theorem delivers_listBit {w bits rest : List Bool} : Delivers listBit w bits rest ↔ bits = w ++ rest := by
  induction w generalizing bits with
  | nil => exact eq_comm
  | cons b w ih => cases bits <;> simp [delivers_cons, listBit, ih]

/-- The machine's cursor delivers what that many calls of `readBit()` return. -/
theorem delivers_readBit {w : List Bool} {s s' : Machine.State} :
    Delivers Machine.readBit w s s' ↔ Machine.readBitList w.length s = .ok (w, s') := by
  induction w generalizing s with
  | nil => simp [Machine.readBitList, eq_comm]
  | cons b w ih =>
    rcases h : Machine.readBit s with e | ⟨b', mid⟩
    · simp [delivers_cons, Machine.readBitList, h]
    · rcases h' : Machine.readBitList w.length mid with e | ⟨w', s''⟩ <;>
        simp [delivers_cons, Machine.readBitList, h, ih, h', and_assoc]

/-! ## The readers -/

section
variable {ε σ : Type} {next : BitSource ε σ} {st st' : σ}

/-- One pass of the loop of `readBits(n)`, with the bits `w` still to come. -/
theorem shift_or_bit_mul (acc : Word) (b : Bool) (w : List Bool) :
    (acc <<< 1 ||| if b then 1 else 0) * 2 ^ w.length + BitVec.ofNat 32 (bitsValue w) =
      acc * 2 ^ (w.length + 1) + BitVec.ofNat 32 (bitsValue (b :: w)) := by
  have hpow : BitVec.ofNat 32 (2 ^ w.length) = 2 ^ w.length := Nat.cast_pow (α := Word) 2 w.length
  rw [shift_or_bit, bitsValue_cons]
  simp only [BitVec.ofNat_add, BitVec.ofNat_mul, BitVec.ofNat_toNat, BitVec.setWidth_eq, BitVec.ofNat_eq_ofNat, hpow]
  ring

theorem readBitsFrom_eq_ok_iff {n : Nat} {acc v : Word} :
    readBitsFrom next n acc st = .ok (v, st') ↔
      ∃ w, w.length = n ∧ Delivers next w st st' ∧ v = acc * 2 ^ n + BitVec.ofNat 32 (bitsValue w) := by
  induction n generalizing acc st with
  | zero => simp [readBitsFrom, List.length_eq_zero_iff, eq_comm, and_comm]
  | succ n ih =>
    rcases h : next st with e | ⟨b, mid⟩
    · simp only [readBitsFrom, h, reduceCtorEq, false_iff]
      rintro ⟨_ | ⟨b, w⟩, hw, hd, -⟩
      · simp at hw
      · simp [delivers_cons, h] at hd
    · simp only [readBitsFrom, h, ih]
      constructor
      · rintro ⟨w, rfl, hd, rfl⟩
        exact ⟨b :: w, rfl, ⟨mid, h, hd⟩, shift_or_bit_mul acc b w⟩
      · rintro ⟨_ | ⟨b', w⟩, hw, hd, rfl⟩
        · simp at hw
        · obtain ⟨mid', h', hd⟩ := hd
          obtain ⟨rfl, rfl⟩ : b' = b ∧ mid' = mid := by simpa [h, eq_comm] using h'
          obtain rfl : w.length = n := by simpa using hw
          exact ⟨w, rfl, hd, (shift_or_bit_mul acc b' w).symm⟩

/-- `readBits(n)` gives `v` exactly where the source delivers the `n` bits of `v` (spec/40 R79). -/
theorem readBits_eq_ok_iff {n : Nat} (hn : n ≤ 32) {v : Word} :
    readBits next n st = .ok (v, st') ↔ v.toNat < 2 ^ n ∧ Delivers next (msbBits n v.toNat) st st' := by
  have hpow : 2 ^ n ≤ 2 ^ 32 := Nat.pow_le_pow_right (by norm_num) hn
  have hacc (x : Word) : 0 * 2 ^ n + x = x := by ring
  simp only [readBits, readBitsFrom_eq_ok_iff, hacc]
  constructor
  · rintro ⟨w, rfl, hd, rfl⟩
    have hv : (BitVec.ofNat 32 (bitsValue w)).toNat = bitsValue w :=
      Nat.mod_eq_of_lt ((bitsValue_lt w).trans_le hpow)
    rw [hv, msbBits_bitsValue]
    exact ⟨bitsValue_lt w, hd⟩
  · rintro ⟨hv, hd⟩
    refine ⟨_, length_msbBits n v.toNat, hd, ?_⟩
    rw [bitsValue_msbBits, Nat.mod_eq_of_lt hv, BitVec.ofNat_toNat, BitVec.setWidth_eq]

theorem decodeValue_eq_ok_iff {n : Nat} (hn : n ≤ 32) {mk : Word → Instr} {i : Instr} :
    decodeValue next n mk st = .ok (i, st') ↔
      ∃ v, mk v = i ∧ fitsWidth n v = true ∧ Delivers next (msbBits n v.toNat) st st' := by
  have hread : decodeValue next n mk st = .ok (i, st') ↔ ∃ v, mk v = i ∧ readBits next n st = .ok (v, st') := by
    unfold decodeValue
    rcases readBits next n st with e | ⟨v, mid⟩ <;> simp
  simp [hread, readBits_eq_ok_iff hn, fitsWidth]

/-- A value field whose instruction holds an operand of just that width. -/
theorem decodeValue_setWidth_eq_ok_iff {n : Nat} (hn : n ≤ 32) {mk : BitVec n → Instr} {i : Instr} :
    decodeValue next n (fun v => mk (v.setWidth n)) st = .ok (i, st') ↔
      ∃ x, mk x = i ∧ Delivers next (msbBits n x.toNat) st st' := by
  rw [decodeValue_eq_ok_iff hn]
  constructor
  · rintro ⟨v, rfl, hv, hd⟩
    refine ⟨v.setWidth n, rfl, ?_⟩
    rwa [BitVec.toNat_setWidth, Nat.mod_eq_of_lt (of_decide_eq_true hv)]
  · rintro ⟨x, rfl, hd⟩
    have hx : (x.setWidth 32).toNat = x.toNat := BitVec.toNat_setWidth_of_le hn
    refine ⟨x.setWidth 32, ?_, decide_eq_true (hx.symm ▸ x.isLt), hx.symm ▸ hd⟩
    rw [BitVec.setWidth_setWidth_of_le x hn, BitVec.setWidth_eq]

/-! ## Field `CT` (spec/30 R66, R67) -/

/-- The code of the count `k` where at most `n` bits are read: `k` zeros, and then a one unless the count has stopped at `n`. -/
def unaryCode : Nat → Nat → List Bool
  | 0, _ => []
  | _ + 1, 0 => [true]
  | n + 1, k + 1 => false :: unaryCode n k

theorem countZeros_eq_ok_iff {n i j : Nat} :
    countZeros next n i st = .ok (j, st') ↔ ∃ k ≤ n, i + k = j ∧ Delivers next (unaryCode n k) st st' := by
  induction n generalizing i st with
  | zero => simp [countZeros, unaryCode, eq_comm]
  | succ n ih =>
    have hsplit (P : Nat → Prop) : (∃ k ≤ n + 1, P k) ↔ P 0 ∨ ∃ k ≤ n, P (k + 1) := by
      simp only [← Nat.lt_succ_iff, Nat.exists_lt_succ_left]
    rcases h : next st with e | ⟨_ | _, mid⟩
    · simp [countZeros, h, hsplit, unaryCode, delivers_cons]
    · simp [countZeros, h, hsplit, unaryCode, delivers_cons, ih, Nat.add_assoc, Nat.add_comm 1]
    · simp [countZeros, h, hsplit, unaryCode, delivers_cons, eq_comm]

/-- The whole count of a compression type. -/
theorem countZeros_maxZeros_eq_ok_iff {k : Nat} :
    countZeros next maxZeros 0 st = .ok (k, st') ↔ k ≤ maxZeros ∧ Delivers next (unaryCode maxZeros k) st st' := by
  simp [countZeros_eq_ok_iff]

theorem delivers_of_decodeType (r : Rows) {i : Instr} (h : decodeType next st = .ok (i, st')) :
    Delivers next (encode r i) st st' := by
  unfold decodeType at h
  rcases hc : countZeros next maxZeros 0 st with e | ⟨k, mid⟩ <;> rw [hc] at h
  · simp at h
  obtain ⟨hk, hd⟩ := countZeros_maxZeros_eq_ok_iff.mp hc
  have plain {j : Instr} (hj : encode r j = unaryCode maxZeros k)
      (h : (.ok (j, mid) : Except ε (Instr × σ)) = .ok (i, st')) : Delivers next (encode r i) st st' := by
    obtain ⟨rfl, rfl⟩ : j = i ∧ mid = st' := by simpa using h
    exact hj ▸ hd
  have extra {n : Nat} {mk : BitVec n → Instr} (hn : n ≤ 32)
      (hj : ∀ x, encode r (mk x) = unaryCode maxZeros k ++ msbBits n x.toNat)
      (h : decodeValue next n (fun v => mk (v.setWidth n)) mid = .ok (i, st')) : Delivers next (encode r i) st st' := by
    obtain ⟨x, rfl, hx⟩ := (decodeValue_setWidth_eq_ok_iff hn).mp h
    exact hj x ▸ delivers_append.mpr ⟨mid, hd, hx⟩
  match k, hk with
  | 0, _ => exact plain rfl h
  | 1, _ => exact plain rfl h
  | 2, _ => exact plain rfl h
  | 3, _ => exact plain rfl h
  | 4, _ => exact extra (mk := .ct4) (by decide) (fun _ => rfl) h
  | 5, _ => exact extra (mk := .ct5) (by decide) (fun _ => rfl) h

theorem decodeType_of_delivers (r : Rows) {i : Instr} (hi : i.IsType) (hd : Delivers next (encode r i) st st') :
    decodeType next st = .ok (i, st') := by
  have count {k : Nat} {mid : σ} (hk : k ≤ maxZeros) (hd : Delivers next (unaryCode maxZeros k) st mid) :=
    countZeros_maxZeros_eq_ok_iff.mpr ⟨hk, hd⟩
  unfold decodeType
  cases hi with
  | ct0 => simp only [count (k := 0) (by decide) hd]
  | ct1 => simp only [count (k := 1) (by decide) hd]
  | ct2 => simp only [count (k := 2) (by decide) hd]
  | ct3 => simp only [count (k := 3) (by decide) hd]
  | ct4 x =>
    obtain ⟨mid, hd, hx⟩ := delivers_append.mp hd
    rw [count (k := 4) (by decide) hd]
    exact (decodeValue_setWidth_eq_ok_iff (by decide)).mpr ⟨x, rfl, hx⟩
  | ct5 x =>
    obtain ⟨mid, hd, hx⟩ := delivers_append.mp hd
    rw [count (k := 5) (by decide) hd]
    exact (decodeValue_setWidth_eq_ok_iff (by decide)).mpr ⟨x, rfl, hx⟩

/-- A compression type is read exactly where the source delivers its encoding. -/
theorem decodeType_eq_ok_iff (r : Rows) {i : Instr} :
    decodeType next st = .ok (i, st') ↔ i.IsType ∧ Delivers next (encode r i) st st' :=
  ⟨fun h => ⟨decodeType_code h, delivers_of_decodeType r h⟩, fun ⟨hi, hd⟩ => decodeType_of_delivers r hi hd⟩

/-! ## The modestore fields (spec/30 R68) -/

/-- The bits that select a tier (spec/41 R87). -/
def tierPrefix : Machine.Tier → List Bool
  | .small => [true]
  | .medium => [false, true]
  | .large => [false, false]

/-- The code of a tier with its value field, over a row. -/
def modestoreCode (row : Row) (t : Machine.Tier) (v : Word) : List Bool :=
  tierPrefix t ++ msbBits (Machine.tierWidth row t) v.toNat

theorem tierWidth_le (row : Row) (t : Machine.Tier) : Machine.tierWidth row t ≤ 31 := by
  obtain ⟨hs, hm, hl⟩ := row.widths_le
  cases t <;> assumption

/-- A modestore field is read exactly where the source delivers the code of a tier with a value that fits it. -/
theorem decodeModestore_eq_ok_iff {row : Row} {mk : Machine.Tier → Word → Instr} {i : Instr} :
    decodeModestore next row (mk .small) (mk .medium) (mk .large) st = .ok (i, st') ↔
      ∃ t v, mk t v = i ∧ fitsWidth (Machine.tierWidth row t) v = true ∧ Delivers next (modestoreCode row t v) st st' := by
  obtain ⟨hs, hm, hl⟩ := row.widths_le
  have htier (P : Machine.Tier → Prop) : (∃ t, P t) ↔ P .small ∨ P .medium ∨ P .large :=
    ⟨fun ⟨t, h⟩ => by cases t <;> simp [h], fun h => by rcases h with h | h | h <;> exact ⟨_, h⟩⟩
  simp only [decodeModestore, htier, modestoreCode, tierPrefix, delivers_append, delivers_cons, delivers_nil,
    Machine.tierWidth]
  rcases h : next st with e | ⟨_ | _, mid⟩
  · simp
  · rcases h' : next mid with e | ⟨_ | _, mid'⟩
    · simp [h']
    · simp (disch := omega) [h', decodeValue_eq_ok_iff]
    · simp (disch := omega) [h', decodeValue_eq_ok_iff]
  · simp (disch := omega) [decodeValue_eq_ok_iff]

end

/-! ## The codes of each field -/

section
variable {i : Instr} {r : Rows}

theorem isType_of_context (h : i.context r = .field .type) : i.IsType := by
  cases i with
  | ct0 | ct1 | ct2 | ct3 | ct4 | ct5 => constructor
  | _ => cases h

theorem isType_iff : i.IsType ↔ i.wf r = true ∧ i.context r = .field .type := by
  constructor
  · rintro (_ | _) <;> exact ⟨rfl, rfl⟩
  · rintro ⟨-, hc⟩
    exact isType_of_context hc

theorem exists_offsetCode_iff : (∃ t v, Machine.offsetCode t v = i ∧ fitsWidth (Machine.tierWidth r.off t) v = true) ↔
    i.wf r = true ∧ i.context r = .field (.offset r.off) := by
  constructor
  · rintro ⟨t, v, rfl, hv⟩
    cases t <;> exact ⟨hv, rfl⟩
  · rintro ⟨hw, hc⟩
    cases i with
    | offS v => exact ⟨.small, v, rfl, hw⟩
    | offM v => exact ⟨.medium, v, rfl, hw⟩
    | offL v => exact ⟨.large, v, rfl, hw⟩
    | _ => cases hc

theorem exists_runCode_iff : (∃ t v, Machine.runCode t v = i ∧ fitsWidth (Machine.tierWidth r.nl t) v = true) ↔
    i.wf r = true ∧ i.context r = .field (.run r.nl) := by
  constructor
  · rintro ⟨t, v, rfl, hv⟩
    cases t <;> exact ⟨hv, rfl⟩
  · rintro ⟨hw, hc⟩
    cases i with
    | nlS v => exact ⟨.small, v, rfl, hw⟩
    | nlM v => exact ⟨.medium, v, rfl, hw⟩
    | nlL v => exact ⟨.large, v, rfl, hw⟩
    | _ => cases hc

theorem encode_offsetCode (r : Rows) (t : Machine.Tier) (v : Word) :
    encode r (Machine.offsetCode t v) = modestoreCode r.off t v := by cases t <;> rfl

theorem encode_runCode (r : Rows) (t : Machine.Tier) (v : Word) :
    encode r (Machine.runCode t v) = modestoreCode r.nl t v := by cases t <;> rfl

/-- A modestore field whose instructions are `mk`, told by `P`, and have the codes of the row. -/
theorem decodeModestore_eq_ok_iff_encode {ε σ : Type} {next : BitSource ε σ} {st st' : σ} {row : Row}
    {mk : Machine.Tier → Word → Instr} {P : Prop} (henc : ∀ t v, encode r (mk t v) = modestoreCode row t v)
    (hcode : (∃ t v, mk t v = i ∧ fitsWidth (Machine.tierWidth row t) v = true) ↔ P) :
    decodeModestore next row (mk .small) (mk .medium) (mk .large) st = .ok (i, st') ↔
      P ∧ Delivers next (encode r i) st st' := by
  rw [decodeModestore_eq_ok_iff, ← hcode]
  constructor
  · rintro ⟨t, v, rfl, hv, hd⟩
    exact ⟨⟨t, v, rfl, hv⟩, (henc t v).symm ▸ hd⟩
  · rintro ⟨⟨t, v, rfl, hv⟩, hd⟩
    exact ⟨t, v, rfl, hv, henc t v ▸ hd⟩

/-- A token field is read exactly where the source delivers the encoding of a well-formed instruction of that field: both the
round trips of the encoding and those of the fetch rest on this. -/
theorem decodeField_eq_ok_iff {ε σ : Type} {next : BitSource ε σ} {st st' : σ} (r : Rows) (f : Machine.TokenField)
    {i : Instr} : decodeField next (f.field r) st = .ok (i, st') ↔
      i.wf r = true ∧ i.context r = .field (f.field r) ∧ Delivers next (encode r i) st st' := by
  rw [← and_assoc]
  cases f with
  | type => exact (decodeType_eq_ok_iff r).trans (and_congr_left' isType_iff)
  | offset =>
    exact decodeModestore_eq_ok_iff_encode (mk := Machine.offsetCode) (encode_offsetCode r) exists_offsetCode_iff
  | run => exact decodeModestore_eq_ok_iff_encode (mk := Machine.runCode) (encode_runCode r) exists_runCode_iff

end

/-! ## Bit strings -/

section
variable {r : Rows} {i : Instr} {bits rest : List Bool}

theorem decode_field_eq_ok_iff (f : Machine.TokenField) : decode (.field (f.field r)) bits = .ok (i, rest) ↔
    i.wf r = true ∧ i.context r = .field (f.field r) ∧ bits = encode r i ++ rest := by
  rw [decode, decodeField_eq_ok_iff, delivers_listBit]

theorem decode_literal_eq_ok_iff :
    decode .literal bits = .ok (i, rest) ↔ ∃ b : Byte, .litb b = i ∧ bits = byteBits b ++ rest := by
  have h : decode .literal bits = decodeValue listBit 8 (fun v => .litb (v.setWidth 8)) bits := by
    simp only [decode, decodeValue]
    rcases readBits listBit 8 bits with e | ⟨v, mid⟩ <;> rfl
  simp only [h, decodeValue_setWidth_eq_ok_iff (n := 8) (by decide), delivers_listBit, byteBits]

/-- A word written to `CTRL` as 32 bits. -/
theorem decode_ctrl_msbBits {w : Word} (h : decodeCtrl w = some i) :
    decode .ctrl (msbBits 32 w.toNat ++ rest) = .ok (i, rest) := by
  have hread : readBits listBit 32 (msbBits 32 w.toNat ++ rest) = .ok (w, rest) :=
    (readBits_eq_ok_iff le_rfl).mpr ⟨w.isLt, delivers_listBit.mpr rfl⟩
  simp only [decode, hread, h]

theorem decodeCtrl_startWord (v q : Bool) : decodeCtrl (startWord v q) = some (.start v q) := by
  cases v <;> cases q <;> decide

/-- Decoding undoes encoding, whatever bits follow. -/
theorem decode_encode (hi : i.wf r = true) : decode (i.context r) (encode r i ++ rest) = .ok (i, rest) := by
  have hfield (f : Machine.TokenField) (hf : i.context r = .field (f.field r)) :
      decode (i.context r) (encode r i ++ rest) = .ok (i, rest) :=
    hf ▸ (decode_field_eq_ok_iff f).mpr ⟨hi, hf, rfl⟩
  cases i with
  | ct0 | ct1 | ct2 | ct3 | ct4 | ct5 => exact hfield .type rfl
  | offS | offM | offL => exact hfield .offset rfl
  | nlS | nlM | nlL => exact hfield .run rfl
  | litb b => exact decode_literal_eq_ok_iff.mpr ⟨b, rfl, rfl⟩
  | start v q => exact decode_ctrl_msbBits (decodeCtrl_startWord v q)

end

/-! ## Every bit string begins with a code (spec/30 R72) -/

section
variable {bits : List Bool}

theorem exists_unaryCode_prefix {n : Nat} (h : n ≤ bits.length) : ∃ k ≤ n, ∃ rest, bits = unaryCode n k ++ rest := by
  induction n generalizing bits with
  | zero => exact ⟨0, le_rfl, bits, rfl⟩
  | succ n ih =>
    rcases bits with _ | ⟨_ | _, bits⟩
    · simp at h
    · obtain ⟨k, hk, rest, rfl⟩ := ih (Nat.le_of_succ_le_succ h)
      exact ⟨k + 1, Nat.succ_le_succ hk, rest, rfl⟩
    · exact ⟨0, n.succ.zero_le, bits, rfl⟩

theorem exists_operand_prefix {n : Nat} (h : n ≤ bits.length) :
    ∃ (x : BitVec n) (rest : List Bool), bits = msbBits n x.toNat ++ rest := by
  obtain ⟨x, hx, rest, rfl⟩ := exists_msbBits_prefix h
  exact ⟨BitVec.ofNatLT x hx, rest, rfl⟩

theorem exists_value_prefix {n : Nat} (hn : n ≤ 32) (h : n ≤ bits.length) :
    ∃ (v : Word) (rest : List Bool), fitsWidth n v = true ∧ bits = msbBits n v.toNat ++ rest := by
  obtain ⟨x, rest, rfl⟩ := exists_operand_prefix h
  have hx : (x.setWidth 32).toNat = x.toNat := BitVec.toNat_setWidth_of_le hn
  exact ⟨x.setWidth 32, rest, decide_eq_true (hx.symm ▸ x.isLt), by rw [hx]⟩

/-- The longest compression type takes 13 bits. -/
theorem exists_type_prefix (r : Rows) (h : 13 ≤ bits.length) :
    ∃ i : Instr, i.IsType ∧ ∃ rest, bits = encode r i ++ rest := by
  obtain ⟨k, hk, rest, rfl⟩ := exists_unaryCode_prefix (n := maxZeros) (Nat.le_trans (by decide) h)
  match k, hk with
  | 0, _ => exact ⟨.ct0, .ct0, rest, rfl⟩
  | 1, _ => exact ⟨.ct1, .ct1, rest, rfl⟩
  | 2, _ => exact ⟨.ct2, .ct2, rest, rfl⟩
  | 3, _ => exact ⟨.ct3, .ct3, rest, rfl⟩
  | 4, _ =>
    obtain ⟨x, rest, rfl⟩ := exists_operand_prefix (n := 3) (bits := rest) (by simp [unaryCode, maxZeros] at h; omega)
    exact ⟨.ct4 x, .ct4 x, rest, by simp [encode, unaryCode, maxZeros]⟩
  | 5, _ =>
    obtain ⟨x, rest, rfl⟩ := exists_operand_prefix (n := 8) (bits := rest) (by simp [unaryCode, maxZeros] at h; omega)
    exact ⟨.ct5 x, .ct5 x, rest, by simp [encode, unaryCode, maxZeros]⟩

/-- The longest modestore code takes 2 + 31 bits. -/
theorem exists_modestoreCode_prefix (row : Row) (h : 33 ≤ bits.length) :
    ∃ t v, fitsWidth (Machine.tierWidth row t) v = true ∧ ∃ rest, bits = modestoreCode row t v ++ rest := by
  have htier : ∃ t w, bits = tierPrefix t ++ w ∧ 31 ≤ w.length := by
    match bits, h with
    | true :: w, h => exact ⟨.small, w, rfl, by simp at h; omega⟩
    | false :: true :: w, h => exact ⟨.medium, w, rfl, by simpa using h⟩
    | false :: false :: w, h => exact ⟨.large, w, rfl, by simpa using h⟩
  obtain ⟨t, w, rfl, hw⟩ := htier
  have ht := tierWidth_le row t
  obtain ⟨v, rest, hv, rfl⟩ := exists_value_prefix (ht.trans (by decide)) (ht.trans hw)
  exact ⟨t, v, hv, rest, (List.append_assoc _ _ _).symm⟩

/-- The codes of every token field are complete at 33 bits. -/
theorem exists_code_prefix (r : Rows) (f : Machine.TokenField) (h : 33 ≤ bits.length) :
    ∃ i rest, i.wf r = true ∧ i.context r = .field (f.field r) ∧ bits = encode r i ++ rest := by
  cases f with
  | type =>
    obtain ⟨i, hi, rest, hb⟩ := exists_type_prefix r (Nat.le_trans (by decide) h)
    obtain ⟨hw, hc⟩ := isType_iff.mp hi
    exact ⟨i, rest, hw, hc, hb⟩
  | offset =>
    obtain ⟨t, v, hv, rest, hb⟩ := exists_modestoreCode_prefix r.off h
    obtain ⟨hw, hc⟩ := exists_offsetCode_iff.mp ⟨t, v, rfl, hv⟩
    exact ⟨_, rest, hw, hc, encode_offsetCode r t v ▸ hb⟩
  | run =>
    obtain ⟨t, v, hv, rest, hb⟩ := exists_modestoreCode_prefix r.nl h
    obtain ⟨hw, hc⟩ := exists_runCode_iff.mp ⟨t, v, rfl, hv⟩
    exact ⟨_, rest, hw, hc, encode_runCode r t v ▸ hb⟩

open Laws in
theorem length_encode (r : Rows) (i : Instr) : (encode r i).length = i.bits r := by
  cases i with
  | ct0 => exact EncodeLength.ct0 r
  | ct1 => exact EncodeLength.ct1 r
  | ct2 => exact EncodeLength.ct2 r
  | ct3 => exact EncodeLength.ct3 r
  | ct4 x => exact EncodeLength.ct4 x r
  | ct5 x => exact EncodeLength.ct5 x r
  | offS v => exact EncodeLength.offS v r
  | offM v => exact EncodeLength.offM v r
  | offL v => exact EncodeLength.offL v r
  | nlS v => exact EncodeLength.nlS v r
  | nlM v => exact EncodeLength.nlM v r
  | nlL v => exact EncodeLength.nlL v r
  | litb b => exact EncodeLength.litb b r
  | start v q => exact EncodeLength.start v q r

/-- No instruction is longer than 33 bits (spec/41 R85). -/
theorem Instr.bits_le (r : Rows) (i : Instr) : i.bits r ≤ 33 := by
  obtain ⟨hos, hom, hol⟩ := r.off.widths_le
  obtain ⟨hns, hnm, hnl⟩ := r.nl.widths_le
  cases i <;> simp only [Instr.bits] <;> omega

end

end Sys2Proof

namespace Sys2Proof.Machine

/-! ## The fetch of a token field -/

/-- With rows in use, the field the decode is at is that of its place in the token. -/
theorem nextField_of_rows {s : State} {r : Rows} (h : s.rows = some r) : s.nextField = some (s.tokenField.field r) := by
  obtain ⟨row, hrow, rfl⟩ := Option.map_eq_some_iff.mp h
  cases hf : s.tokenField <;> simp [State.nextField, TokenField.field, hf, hrow]

theorem fetchField_eq_ok_iff {s s' : State} {f : Field} {i : Instr} (hf : s.nextField = some f) :
    fetchField s = .ok (i, s') ↔ decodeField readBit f s = .ok (i, s') := by
  rcases h : decodeField readBit f s with e | r <;> simp [fetchField, hf, h]

/-- In `TOKEN` the core fetches exactly the instruction of the field whose encoding the cursor delivers. -/
theorem fetch_token_eq_ok_iff {s s' : State} {r : Rows} {i : Instr} (hp : s.phase = .token) (hr : s.rows = some r) :
    fetch s = some (.ok (i, s')) ↔ i.wf r = true ∧ i.context r = .field (s.tokenField.field r) ∧
      readBitList (encode r i).length s = .ok (encode r i, s') := by
  have hfetch : fetch s = some (fetchField s) := by simp only [fetch, hp]
  rw [hfetch, Option.some_inj, fetchField_eq_ok_iff (nextField_of_rows hr), decodeField_eq_ok_iff, delivers_readBit]

end Sys2Proof.Machine
end

section
/-! SUPPORT. The compression types and their lengths, each the inverse of the other (spec/30 R66, spec/42 R104). -/

namespace Sys2Proof.Machine

/-- The length of a compression type; no other instruction has one. -/
def typeLength : Instr → Nat
  | .ct0 => 2
  | .ct1 => 3
  | .ct2 => 4
  | .ct3 => 5
  | .ct4 x => 6 + x.toNat
  | .ct5 x => 14 + x.toNat
  | _ => 0

/-- The compression type of a length in 2..269. -/
def typeOfLength : Nat → Instr
  | 2 => .ct0
  | 3 => .ct1
  | 4 => .ct2
  | 5 => .ct3
  | n => if n < 14 then .ct4 (BitVec.ofNat 3 (n - 6)) else .ct5 (BitVec.ofNat 8 (n - 14))

theorem typeOfLength_of_lt {n : Nat} (h : 6 ≤ n) (h' : n < 14) : typeOfLength n = .ct4 (BitVec.ofNat 3 (n - 6)) := by
  unfold typeOfLength
  split <;> simp_all

theorem typeOfLength_of_le {n : Nat} (h : 14 ≤ n) : typeOfLength n = .ct5 (BitVec.ofNat 8 (n - 14)) := by
  unfold typeOfLength
  split <;> simp_all

theorem typeOfLength_typeLength {i : Instr} (h : i.IsType) : typeOfLength (typeLength i) = i := by
  cases h with
  | ct0 | ct1 | ct2 | ct3 => rfl
  | ct4 x => rw [typeLength, typeOfLength_of_lt (by omega) (by omega)]; simp
  | ct5 x => rw [typeLength, typeOfLength_of_le (by omega)]; simp

/-- Every length in 2..269 is that of its compression type. -/
theorem typeLength_typeOfLength {n : Nat} (hlo : 2 ≤ n) (hhi : n ≤ 269) :
    (typeOfLength n).IsType ∧ typeLength (typeOfLength n) = n := by
  rcases Nat.lt_or_ge n 6 with h | h
  · interval_cases n <;> exact ⟨by constructor, rfl⟩
  rcases Nat.lt_or_ge n 14 with h' | h'
  · rw [typeOfLength_of_lt h h']
    exact ⟨.ct4 _, by simp [typeLength]; omega⟩
  · rw [typeOfLength_of_le h']
    exact ⟨.ct5 _, by simp [typeLength]; omega⟩

/-- A compression type sets `LEN` to its length. -/
theorem exec_type_len {i : Instr} (h : i.IsType) (s : State) :
    ∃ t, exec i s = .next t ∧ t.len.toNat = typeLength i := by
  cases h with
  | ct0 | ct1 | ct2 | ct3 => exact ⟨_, rfl, rfl⟩
  | ct4 x => exact ⟨_, rfl, by simp [refLength, ctypeRow, typeLength]; omega⟩
  | ct5 x => exact ⟨_, rfl, by simp [refLength, ctypeRow, typeLength]; omega⟩

theorem exec_type_len_iff {i : Instr} (h : i.IsType) (s : State) (n : Word) :
    (∃ t, exec i s = .next t ∧ t.len = n) ↔ typeLength i = n.toNat := by
  obtain ⟨t, ht, hlen⟩ := exec_type_len h s
  simp [ht, ← hlen, BitVec.toNat_inj]

theorem typeLength_range {i : Instr} (h : i.IsType) : 2 ≤ typeLength i ∧ typeLength i ≤ 269 := by
  cases h <;> simp only [typeLength] <;> omega

/-- Which instructions are compression types does not depend on the rows. -/
theorem isType_iff_forall_context {i : Instr} : i.IsType ↔ ∀ r, i.context r = .field .type :=
  ⟨fun h _ => (isType_iff.mp h).2, fun h => isType_of_context (h ⟨{}, {}⟩)⟩

end Sys2Proof.Machine
end

section
/-! The statements settled: O1, O2, O3, O4, O12, O13, O18. -/

open Sys2Proof.Machine

namespace Sys2Proof.Proofs

/-- Settles O1, by `decode_encode`: each reader answers where the source delivers a code, and a list delivers what it
begins with. -/
theorem decodeOfEncodeIsIdentity : Obligations.DecodeOfEncodeIsIdentity :=
  fun _ _ _ hi => decode_encode hi

/-- Settles O2, by the equivalence of each token field and of the literal byte. -/
theorem decodedBitsAreTheEncoding : Obligations.DecodedBitsAreTheEncoding := by
  intro r c bits rest i hc h
  simp only [List.mem_cons, List.not_mem_nil, or_false] at hc
  rcases hc with rfl | rfl | rfl | rfl
  · exact (decode_field_eq_ok_iff .type).mp h
  · exact (decode_field_eq_ok_iff .offset).mp h
  · exact (decode_field_eq_ok_iff .run).mp h
  · obtain ⟨b, rfl, hb⟩ := decode_literal_eq_ok_iff.mp h
    exact ⟨rfl, rfl, hb⟩

/-- Settles O12: the equivalence of the token fields, over the machine's cursor. -/
theorem fetchDecodesTheStreamBits : Obligations.FetchDecodesTheStreamBits :=
  fun _ _ _ _ hp hr hi hc hbits => (fetch_token_eq_ok_iff hp hr).mpr ⟨hi, hc, hbits⟩

/-- Settles O3: the bits begin with an encoding (`exists_code_prefix`), which decodes, and no encoding is longer than 33 bits. -/
theorem noBitPatternIsRejected : Obligations.NoBitPatternIsRejected := by
  intro f bits h
  obtain ⟨r, tf, rfl⟩ : ∃ (r : Rows) (tf : TokenField), tf.field r = f := by
    cases f with
    | type => exact ⟨⟨{}, {}⟩, .type, rfl⟩
    | offset row => exact ⟨⟨row, row⟩, .offset, rfl⟩
    | run row => exact ⟨⟨row, row⟩, .run, rfl⟩
  obtain ⟨i, rest, hi, hc, rfl⟩ := exists_code_prefix r tf h
  refine ⟨i, rest, hc ▸ decode_encode hi, ?_⟩
  have hle := i.bits_le r
  rw [List.length_append, length_encode]
  omega

/-- Settles O13, the converse of O12. -/
theorem fetchedCodeIsInTheStream : Obligations.FetchedCodeIsInTheStream :=
  fun _ _ _ _ hp hr h => (fetch_token_eq_ok_iff hp hr).mp h

/-- Settles O18: on the compression types `typeLength` has the inverse `typeOfLength`. -/
theorem eachLengthHasOneTypeCode : Obligations.EachLengthHasOneTypeCode := by
  intro s n
  constructor
  · rintro ⟨hlo, hhi⟩
    obtain ⟨htype, hlen⟩ := typeLength_typeOfLength hlo hhi
    refine ⟨typeOfLength n.toNat, ⟨isType_iff_forall_context.mp htype, (exec_type_len_iff htype s n).mpr hlen⟩, ?_⟩
    rintro j ⟨hj, hex⟩
    have hj := isType_iff_forall_context.mpr hj
    rw [← (exec_type_len_iff hj s n).mp hex, typeOfLength_typeLength hj]
  · rintro ⟨i, ⟨hi, hex⟩, -⟩
    have hi := isType_iff_forall_context.mpr hi
    exact (exec_type_len_iff hi s n).mp hex ▸ typeLength_range hi

/-- Settles O4: each bit string is an encoding, so it decodes by `decode_encode`. -/
theorem writtenCodesDecode : Obligations.WrittenCodesDecode := by
  unfold Obligations.WrittenCodesDecode
  intro row
  have written (i : Instr) (rest : List Bool) (hi : i.wf ⟨row, row⟩ = true) := decode_encode (rest := rest) hi
  exact ⟨written .ct3 [true] rfl, written (.ct4 7) [] rfl, written (.ct5 128) [] rfl, written (.offS 1) [] rfl,
    written (.offM 0) [] rfl, written (.nlL 0) [] rfl, written (.litb 0x41) [] rfl, decodeCtrl_startWord true true⟩

end Sys2Proof.Proofs
end

/-! # The bitstream cursor (spec/40) -/

section
/-!
SUPPORT. When `readBit()` completes and what it leaves in the shift register; runs of calls over a seed, over a byte and over
the bytes of the stream; `readBits(n)` against single calls.
-/

namespace Sys2Proof.Machine

/-! ## The shift register -/

/-- The register shifted: `SR[6:0]` followed by the bit `c` (spec/40 R77, R78). -/
def shiftIn (x : Byte) (c : BitVec 1) : Byte := x.extractLsb' 0 7 ++ c

theorem getLsbD_shiftIn_zero (x : Byte) (c : BitVec 1) : (shiftIn x c).getLsbD 0 = c.getLsbD 0 := by
  rw [shiftIn, BitVec.getLsbD_append, if_pos Nat.zero_lt_one]

theorem getLsbD_shiftIn_succ (x : Byte) (c : BitVec 1) {i : Nat} (hi : i < 7) :
    (shiftIn x c).getLsbD (i + 1) = x.getLsbD i := by
  rw [shiftIn, BitVec.getLsbD_append, if_neg (Nat.not_lt_of_le (Nat.succ_le_succ i.zero_le))]
  simp [hi]

/-- The model's form of the shift. -/
theorem mask_shift_or (x : Byte) (c : BitVec 1) : ((x &&& 0x7F) <<< 1) ||| c.setWidth 8 = shiftIn x c := by
  have hmask : ∀ j < 7, (0x7F : Byte).getLsbD j = true := by decide
  apply BitVec.eq_of_getLsbD_eq
  intro i hi
  rcases i with _ | i
  · rw [getLsbD_shiftIn_zero]
    simp
  · have h7 : i < 7 := Nat.lt_of_succ_lt_succ hi
    rw [getLsbD_shiftIn_succ x c h7, BitVec.getLsbD_or, BitVec.getLsbD_shiftLeft, Nat.add_sub_cancel, BitVec.getLsbD_and,
      hmask i h7]
    simp [hi]

/-- Bit `t` is the lowest set bit of a byte (spec/40 R81). -/
def LowestSetBit (x : Byte) (t : Nat) : Prop := x.getLsbD t = true ∧ ∀ j < t, x.getLsbD j = false

theorem lowestSetBit_sentinel : LowestSetBit sentinel 7 := by
  unfold LowestSetBit
  decide

/-- The sentinel is the byte with no bit below its top bit. -/
theorem lowestSetBit_seven_iff {x : Byte} : LowestSetBit x 7 ↔ x = sentinel := by
  refine ⟨fun ⟨htop, hlow⟩ => ?_, fun h => h ▸ lowestSetBit_sentinel⟩
  obtain ⟨hstop, hslow⟩ := lowestSetBit_sentinel
  apply BitVec.eq_of_getLsbD_eq
  intro i hi
  rcases Nat.lt_succ_iff_lt_or_eq.mp hi with h | rfl
  · rw [hlow i h, hslow i h]
  · rw [htop, hstop]

theorem LowestSetBit.ne_sentinel {x : Byte} {t : Nat} (h : LowestSetBit x t) (ht : t < 7) : x ≠ sentinel := by
  rintro rfl
  exact absurd h.1 (by simp [lowestSetBit_sentinel.2 t ht])

/-- A shift moves the lowest set bit up by one. -/
theorem LowestSetBit.shift {x : Byte} {t : Nat} (h : LowestSetBit x t) (ht : t < 7) :
    LowestSetBit (shiftIn x 0) (t + 1) := by
  refine ⟨(getLsbD_shiftIn_succ x 0 ht).trans h.1, fun j hj => ?_⟩
  rcases j with _ | j
  · exact getLsbD_shiftIn_zero x 0
  · have hjt := Nat.lt_of_succ_lt_succ hj
    exact (getLsbD_shiftIn_succ x 0 (hjt.trans ht)).trans (h.2 j hjt)

/-- A reload leaves bit 0 set. -/
theorem lowestSetBit_reload (x : Byte) : LowestSetBit (shiftIn x 1) 0 :=
  ⟨getLsbD_shiftIn_zero x 1, fun _ hj => absurd hj (Nat.not_lt_zero _)⟩

theorem LowestSetBit.ne_zero {x : Byte} {t : Nat} (h : LowestSetBit x t) : x ≠ 0 := by
  rintro rfl
  simpa using h.1

/-- A byte other than 0 has a lowest set bit. -/
theorem exists_lowestSetBit {x : Byte} (h : x ≠ 0) : ∃ t ≤ 7, LowestSetBit x t := by
  have hset : ∃ t, x.getLsbD t = true := by
    by_contra hno
    exact h (BitVec.eq_of_getLsbD_eq fun i _ => by simpa using not_exists.mp hno i)
  refine ⟨Nat.find hset, ?_, Nat.find_spec hset, fun j hj => by simpa using Nat.find_min hset hj⟩
  exact Nat.le_of_lt_succ (BitVec.lt_of_getLsbD (Nat.find_spec hset))

/-! ## One call of `readBit()` -/

section
variable {s : State}

/-- `readByte()` at the end of the stream (spec/40 R76). -/
theorem readByte_of_rp_zero (h0 : s.rp = 0) : readByte s = .error (.raise .readUnderflow s) := by
  rw [readByte, if_pos h0]

/-- A reload at the end of the stream (spec/40 R77). -/
theorem readBit_of_rp_zero (hs : s.sr = sentinel) (h0 : s.rp = 0) :
    readBit s = .error (.raise .readUnderflow s) := by
  rw [readBit, if_pos hs, readByte_of_rp_zero h0]

/-- When a reload completes (spec/40 R77). -/
theorem readBit_reload (hs : s.sr = sentinel) (h0 : s.rp ≠ 0) (hle : s.rp.toNat ≤ s.bufLen.toNat) :
    readBit s = .ok ((s.bufByte (s.rp.toNat - 1)).getLsbD 7,
      s.setCursor (s.rp - 1) (shiftIn (s.bufByte (s.rp.toNat - 1)) 1)) := by
  rw [readBit, if_pos hs, readByte_of h0 hle, ← mask_shift_or]
  rfl

/-- A shift always completes (spec/40 R78). -/
theorem readBit_shift (hs : s.sr ≠ sentinel) :
    readBit s = .ok (s.sr.getLsbD 7, s.setCursor s.rp (shiftIn s.sr 0)) := by
  rw [readBit, if_neg hs, ← mask_shift_or]
  simp

theorem setCursor_self (s : State) : s.setCursor s.rp s.sr = s := rfl

/-- An empty register answers 0 and stays empty (spec/40 R78). -/
theorem readBit_of_sr_zero (hs : s.sr = 0) : readBit s = .ok (false, s) := by
  have hshift : shiftIn 0 0 = s.sr := hs.symm
  rw [readBit_shift (by rw [hs]; decide), hs, hshift, setCursor_self]
  rfl

/-- What a completed `readBit()` leaves in the fetch pointer, after a reload and after a shift. -/
theorem readBit_ok_cursor {t : State} {b : Bool} (h : readBit s = .ok (b, t)) :
    (s.sr = sentinel ∧ s.rp ≠ 0 ∧ t.rp = s.rp - 1 ∧ t.sr = shiftIn (s.bufByte (s.rp.toNat - 1)) 1) ∨
    (s.sr ≠ sentinel ∧ t.rp = s.rp ∧ t.sr = shiftIn s.sr 0) := by
  rcases readBit_ok h with ⟨hs, h0, -, -, rfl⟩ | ⟨hs, -, rfl⟩
  · exact .inl ⟨hs, h0, rfl, mask_shift_or _ 1⟩
  · exact .inr ⟨hs, rfl, BitVec.or_zero.symm.trans (mask_shift_or _ 0)⟩

/-- A nonzero shift register stays nonzero (spec/40 R82). -/
theorem readBit_sr_ne_zero {t : State} {b : Bool} (h : readBit s = .ok (b, t)) (h0 : s.sr ≠ 0) : t.sr ≠ 0 := by
  rcases readBit_ok_cursor h with ⟨-, -, -, hsr⟩ | ⟨hs, -, hsr⟩
  · exact hsr ▸ (lowestSetBit_reload _).ne_zero
  · obtain ⟨u, hu, hlow⟩ := exists_lowestSetBit h0
    have hlt : u < 7 := lt_of_le_of_ne hu fun hu => hs (lowestSetBit_seven_iff.mp (hu ▸ hlow))
    exact hsr ▸ (hlow.shift hlt).ne_zero

/-- `RP` falls by one exactly at a reload (spec/40 R82). -/
theorem readBit_rp {t : State} {b : Bool} (h : readBit s = .ok (b, t)) :
    t.rp.toNat = s.rp.toNat - (if s.sr = sentinel then 1 else 0) := by
  rcases readBit_ok_cursor h with ⟨hs, h0, hrp, -⟩ | ⟨hs, hrp, -⟩
  · rw [if_pos hs, hrp, toNat_pred h0]
  · rw [if_neg hs, hrp, Nat.sub_zero]

/-! ## Runs of `readBit()` -/

theorem length_of_readBitList {n : Nat} {w : List Bool} {t : State} (h : readBitList n s = .ok (w, t)) :
    w.length = n := by
  induction n generalizing s w t with
  | zero =>
    obtain ⟨rfl, -⟩ : _ ∧ _ := by simpa [readBitList] using h
    rfl
  | succ n ih =>
    rcases hb : readBit s with e | ⟨b, u⟩
    · simp [readBitList, hb] at h
    · rcases hl : readBitList n u with e | ⟨w', v⟩
      · simp [readBitList, hb, hl] at h
      · obtain ⟨rfl, -⟩ : _ ∧ _ := by simpa [readBitList, hb, hl] using h
        rw [List.length_cons, ih hl]

/-- A run that completes is a delivery of its bits. -/
theorem delivers_of_readBitList {n : Nat} {w : List Bool} {t : State} (h : readBitList n s = .ok (w, t)) :
    Delivers readBit w s t :=
  delivers_readBit.mpr ((length_of_readBitList h).symm ▸ h)

/-- A run and `readBits(n)` fail together (spec/40 R79). -/
theorem readBitsFrom_of_readBitList_error {n : Nat} {e : Stop} (acc : Word) (h : readBitList n s = .error e) :
    readBitsFrom readBit n acc s = .error e := by
  induction n generalizing s acc with
  | zero => simp [readBitList] at h
  | succ n ih =>
    rcases hb : readBit s with e' | ⟨b, u⟩
    · simpa [readBitList, readBitsFrom, hb] using h
    · rcases hl : readBitList n u with e' | ⟨w, v⟩
      · obtain rfl : e' = e := by simpa [readBitList, hb, hl] using h
        simpa [readBitsFrom, hb] using ih _ hl
      · simp [readBitList, hb, hl] at h

/-- `readBits(n)` gives the value of the bits delivered (spec/40 R79). -/
theorem readBits_of_delivers {ε σ : Type} {next : BitSource ε σ} {st st' : σ} {w : List Bool} (hw : w.length ≤ 32)
    (h : Delivers next w st st') :
    ∃ v : Word, readBits next w.length st = .ok (v, st') ∧ v.toNat = bitsValue w := by
  have hlt : bitsValue w < 2 ^ 32 := (bitsValue_lt w).trans_le (Nat.pow_le_pow_right two_pos hw)
  have hv : (BitVec.ofNat 32 (bitsValue w)).toNat = bitsValue w := Nat.mod_eq_of_lt hlt
  refine ⟨_, (readBits_eq_ok_iff hw).mpr ⟨?_, ?_⟩, hv⟩ <;> rw [hv]
  · exact bitsValue_lt w
  · rwa [msbBits_bitsValue]

/-! ## What the register and the stream deliver -/

/-- The top `n` bits of a byte, bit 7 first. -/
def topBits (n : Nat) (x : Byte) : List Bool := (List.range n).map fun j => x.getLsbD (7 - j)

@[simp] theorem length_topBits (n : Nat) (x : Byte) : (topBits n x).length = n := by
  simp [topBits]

/-- The first of the top bits leaves with a shift, the others move up. -/
theorem topBits_succ {n : Nat} (hn : n < 8) (x : Byte) (c : BitVec 1) :
    topBits (n + 1) x = x.getLsbD 7 :: topBits n (shiftIn x c) := by
  rw [topBits, List.range_succ_eq_map, List.map_cons, List.map_map]
  congr 1
  refine List.map_congr_left fun j hj => ?_
  have hj : j < n := List.mem_range.mp hj
  obtain ⟨i, hi⟩ : ∃ i, 7 - j = i + 1 := ⟨6 - j, by omega⟩
  rw [hi, getLsbD_shiftIn_succ x c (by omega), Function.comp_apply, show 7 - j.succ = i by omega]

theorem topBits_eight (x : Byte) : topBits 8 x = byteBits x := rfl

/-- A register delivers the bits above its lowest set bit, and is then the sentinel (spec/40 R81). -/
theorem delivers_topBits {n : Nat} (hn : n ≤ 7) (h : LowestSetBit s.sr (7 - n)) :
    Delivers readBit (topBits n s.sr) s (s.setCursor s.rp sentinel) := by
  induction n generalizing s with
  | zero => rw [← lowestSetBit_seven_iff.mp h, setCursor_self]; rfl
  | succ n ih =>
    have ht : 7 - (n + 1) < 7 := by omega
    have hshift := h.shift ht
    rw [show 7 - (n + 1) + 1 = 7 - n by omega] at hshift
    rw [topBits_succ (Nat.lt_succ_of_le (Nat.le_of_succ_le hn)) s.sr 0]
    exact ⟨_, readBit_shift (h.ne_sentinel ht), ih (s := s.setCursor s.rp _) (Nat.le_of_succ_le hn) hshift⟩

/-- The seed 0 delivers zeros for ever (spec/40 R81). -/
theorem delivers_replicate_false (hs : s.sr = 0) (n : Nat) : Delivers readBit (List.replicate n false) s s := by
  induction n with
  | zero => rfl
  | succ n ih => exact ⟨s, readBit_of_sr_zero hs, ih⟩

/-- From the sentinel the cursor delivers the byte below it, and the sentinel is back (spec/40 R80). -/
theorem delivers_byteBits (hs : s.sr = sentinel) (h0 : s.rp ≠ 0) (hle : s.rp.toNat ≤ s.bufLen.toNat) :
    Delivers readBit (byteBits (s.bufByte (s.rp.toNat - 1))) s (s.setCursor (s.rp - 1) sentinel) := by
  rw [← topBits_eight, topBits_succ (by decide) _ 1]
  exact ⟨_, readBit_reload hs h0 hle, delivers_topBits (s := s.setCursor (s.rp - 1) _) le_rfl (lowestSetBit_reload _)⟩

/-- `n` less than a position that leaves room for it. -/
theorem toNat_sub_ofNat {x : Word} {n : Nat} (h : n ≤ x.toNat) : (x - BitVec.ofNat 32 n).toNat = x.toNat - n := by
  have hn : (BitVec.ofNat 32 n).toNat = n := Nat.mod_eq_of_lt (h.trans_lt x.isLt)
  rw [BitVec.toNat_sub_of_le (BitVec.le_def.mpr (hn.symm ▸ h)), hn]

/-- The bits of the `n` stream bytes below the cursor, in the order they are consumed. -/
def State.streamBits (s : State) (n : Nat) : List Bool :=
  (List.range n).flatMap fun j => byteBits (s.bufByte (s.rp.toNat - 1 - j))

@[simp] theorem length_streamBits (s : State) (n : Nat) : (s.streamBits n).length = 8 * n := by
  simp [State.streamBits, byteBits, Nat.mul_comm]

theorem streamBits_succ (s : State) (n : Nat) :
    s.streamBits (n + 1) = s.streamBits n ++ byteBits (s.bufByte (s.rp.toNat - 1 - n)) := by
  simp [State.streamBits, List.range_succ]

/-- The contiguity law (spec/40 R80). -/
theorem delivers_streamBits {n : Nat} (hs : s.sr = sentinel) (hn : n ≤ s.rp.toNat) (hle : s.rp.toNat ≤ s.bufLen.toNat) :
    Delivers readBit (s.streamBits n) s (s.setCursor (s.rp - BitVec.ofNat 32 n) sentinel) := by
  induction n with
  | zero => rw [BitVec.sub_zero, ← hs, setCursor_self]; rfl
  | succ n ih =>
    have hrp := toNat_sub_ofNat (Nat.le_of_succ_le hn)
    have h0 : s.rp - BitVec.ofNat 32 n ≠ 0 := fun h0 => by
      rw [h0, BitVec.ofNat_eq_ofNat, BitVec.toNat_zero] at hrp
      omega
    have hbyte := delivers_byteBits (s := s.setCursor (s.rp - BitVec.ofNat 32 n) sentinel) rfl h0
      (by rw [setCursor_rp, hrp, setCursor_bufLen]; omega)
    rw [setCursor_rp, hrp, Nat.sub_right_comm, BitVec.sub_sub] at hbyte
    rw [streamBits_succ, BitVec.ofNat_add]
    exact delivers_append.mpr ⟨_, ih (Nat.le_of_succ_le hn), hbyte⟩

end

end Sys2Proof.Machine
end

section
/-! The statements settled: O5, O6, O7, O8, O9, O10, O11. -/

open Sys2Proof.Machine

namespace Sys2Proof.Proofs

/-- Settles O8: a run that completes delivers its bits, whose value `readBits` gives; a run that fails does so with it. -/
theorem readBitsIsMostSignificantFirst : Obligations.ReadBitsIsMostSignificantFirst := by
  intro n s hn
  refine ⟨fun w s' h => ?_, fun e h => readBitsFrom_of_readBitList_error 0 h⟩
  obtain rfl := length_of_readBitList h
  obtain ⟨v, hv, hval⟩ := readBits_of_delivers hn (delivers_of_readBitList h)
  exact ⟨v, hv, hval, hval ▸ bitsValue_lt w⟩

/-- Settles O9, byte by byte (`delivers_streamBits`). -/
theorem bitsAreContiguousAcrossBytes : Obligations.BitsAreContiguousAcrossBytes := by
  intro n s hs hn hle
  have h := delivers_readBit.mp (delivers_streamBits hs hn hle)
  rw [length_streamBits, show sentinel = s.sr from hs.symm] at h
  exact h

/-- Settles O10: bit by bit the lowest set bit of the seed climbs to bit 7 (`delivers_topBits`). -/
theorem seedBitsComeFirst : Obligations.SeedBitsComeFirst := by
  intro s
  refine ⟨fun t ht hset hlow => ?_, fun hs n => ?_⟩
  · have hbit : LowestSetBit s.sr (7 - (7 - t)) := (Nat.sub_sub_self ht).symm ▸ ⟨hset, hlow⟩
    have h := delivers_readBit.mp (delivers_topBits (Nat.sub_le 7 t) hbit)
    rw [length_topBits] at h
    exact h
  · have h := delivers_readBit.mp (delivers_replicate_false hs n)
    rw [List.length_replicate] at h
    exact h

/-- Settles O5. -/
theorem readByteTakesTheByteBelow : Obligations.ReadByteTakesTheByteBelow :=
  fun _ => ⟨readByte_of_rp_zero, readByte_of⟩

/-- Settles O6. -/
theorem readBitReloads : Obligations.ReadBitReloads :=
  fun _ hs => ⟨readBit_of_rp_zero hs, readBit_reload hs⟩

/-- Settles O7. -/
theorem readBitShifts : Obligations.ReadBitShifts :=
  fun _ hs => readBit_shift hs

/-- Settles O11. -/
theorem shiftRegisterStaysNonzero : Obligations.ShiftRegisterStaysNonzero :=
  fun _ _ _ h => ⟨readBit_sr_ne_zero h, readBit_rp h⟩

end Sys2Proof.Proofs
end

/-! # The modestore decoder (spec/41): the values of the tiers, and what the codes do with them -/

section
/-!
SUPPORT. The value of a tier as a number, each tier's range, and the one code of each value; the row of an offset code and the
effects of the offset and literal-run codes.
-/

namespace Sys2Proof.Machine

variable {row : Row} {t : Tier} {v : Word} {s : State}

/-! ## The values of a row -/

/-- How many values a row has, those of its three tiers together (spec/41 R91). -/
def rowSize (row : Row) : Nat := 2 ^ row.small + 2 ^ row.medium + 2 ^ row.large

theorem tierRange_le_rowSize (row : Row) (t : Tier) : tierBias row t + 2 ^ tierWidth row t ≤ rowSize row := by
  have hm := Nat.two_pow_pos row.medium
  have hl := Nat.two_pow_pos row.large
  cases t <;> simp only [tierBias, tierWidth, rowSize] <;> omega

/-- The value of a field that fits does not wrap, by the fit condition (spec/41 R85, R91). -/
theorem toNat_tierValue (hv : v.toNat < 2 ^ tierWidth row t) : (tierValue row t v).toNat = v.toNat + tierBias row t := by
  have hle := tierRange_le_rowSize row t
  have hfits : rowSize row ≤ 2 ^ 32 := row.fits
  exact Nat.mod_eq_of_lt (by omega)

/-- The small tier adds nothing (spec/41 R88). -/
@[simp] theorem tierValue_small (row : Row) (v : Word) : tierValue row .small v = v := BitVec.ofNat_toNat 32 v

/-- Each tier's values lie in its range (spec/41 R91). -/
theorem tierValue_range (hv : v.toNat < 2 ^ tierWidth row t) :
    tierBias row t ≤ (tierValue row t v).toNat ∧ (tierValue row t v).toNat < tierBias row t + 2 ^ tierWidth row t := by
  rw [toNat_tierValue hv]
  omega

/-! ## The code of a value -/

/-- The tier in whose range a number lies; beyond the small and the medium range it is the large one. -/
def tierOfValue (row : Row) (n : Nat) : Tier :=
  if n < 2 ^ row.small then .small else if n < 2 ^ row.small + 2 ^ row.medium then .medium else .large

/-- The tier and value field that have the value `n`. -/
def codeOfValue (row : Row) (n : Nat) : Tier × Word :=
  (tierOfValue row n, BitVec.ofNat 32 (n - tierBias row (tierOfValue row n)))

/-- The three ranges are disjoint: a number of a tier's range has that tier. -/
theorem tierOfValue_of_range {n : Nat} (hlo : tierBias row t ≤ n) (hhi : n < tierBias row t + 2 ^ tierWidth row t) :
    tierOfValue row n = t := by
  cases t with
  | small => exact if_pos (hhi.trans_eq (Nat.zero_add _))
  | medium => exact (if_neg hlo.not_gt).trans (if_pos hhi)
  | large => exact (if_neg (Nat.le_of_add_right_le hlo).not_gt).trans (if_neg hlo.not_gt)

/-- The three ranges cover the row: a number below its size lies in the range of its tier. -/
theorem tierOfValue_range {n : Nat} (hn : n < rowSize row) :
    tierBias row (tierOfValue row n) ≤ n ∧ n < tierBias row (tierOfValue row n) + 2 ^ tierWidth row (tierOfValue row n) := by
  unfold rowSize at hn
  unfold tierOfValue
  split_ifs <;> simp only [tierBias, tierWidth] <;> omega

theorem codeOfValue_tierValue (hv : v.toNat < 2 ^ tierWidth row t) :
    codeOfValue row (tierValue row t v).toNat = (t, v) := by
  obtain ⟨hlo, hhi⟩ := tierValue_range hv
  rw [codeOfValue, tierOfValue_of_range hlo hhi, toNat_tierValue hv, Nat.add_sub_cancel, BitVec.ofNat_toNat,
    BitVec.setWidth_eq]

theorem tierValue_codeOfValue {n : Nat} (hn : n < rowSize row) :
    (codeOfValue row n).2.toNat < 2 ^ tierWidth row (codeOfValue row n).1 ∧
      (tierValue row (codeOfValue row n).1 (codeOfValue row n).2).toNat = n := by
  obtain ⟨hlo, hhi⟩ := tierOfValue_range hn
  have hfits : rowSize row ≤ 2 ^ 32 := row.fits
  have hval : (codeOfValue row n).2.toNat = n - tierBias row (tierOfValue row n) := Nat.mod_eq_of_lt (by omega)
  have hv : (codeOfValue row n).2.toNat < 2 ^ tierWidth row (codeOfValue row n).1 := by
    rw [hval]
    exact Nat.sub_lt_left_of_lt_add hlo hhi
  exact ⟨hv, by rw [toNat_tierValue hv, hval]; exact Nat.sub_add_cancel hlo⟩

/-- A code has the value `n` exactly if `n` is a value of the row and the code is that of `n`. -/
theorem code_has_value_iff {c : Tier × Word} {n : Nat} :
    (c.2.toNat < 2 ^ tierWidth row c.1 ∧ (tierValue row c.1 c.2).toNat = n) ↔ n < rowSize row ∧ c = codeOfValue row n := by
  constructor
  · rintro ⟨hv, rfl⟩
    exact ⟨(tierValue_range hv).2.trans_le (tierRange_le_rowSize row c.1), (codeOfValue_tierValue hv).symm⟩
  · rintro ⟨hn, rfl⟩
    exact tierValue_codeOfValue hn

/-! ## The effects of the codes -/

/-- What a code sets to its tier's value, it sets to v, v + 2^S or v + 2^S + 2^M (spec/41 R88 to R90). -/
theorem eq_on_each_tier {α : Type} {f : Tier → α} {g : Word → α} (h : ∀ t, f t = g (tierValue row t v)) :
    (v.toNat < 2 ^ row.small → f .small = g v) ∧
    (v.toNat < 2 ^ row.medium → ∃ w : Word, w.toNat = v.toNat + 2 ^ row.small ∧ f .medium = g w) ∧
    (v.toNat < 2 ^ row.large → ∃ w : Word, w.toNat = v.toNat + 2 ^ row.small + 2 ^ row.medium ∧ f .large = g w) := by
  refine ⟨fun _ => ?_, fun hv => ⟨_, toNat_tierValue (t := .medium) hv, h .medium⟩, fun hv => ⟨_, ?_, h .large⟩⟩
  · rw [h, tierValue_small]
  · rw [toNat_tierValue (t := .large) hv, tierBias, Nat.add_assoc]

/-- The offset row of a legal pack mode (spec/41 R92). -/
theorem offRow_of_lt (h : s.pmode.toNat < 9) :
    s.offRow = some ((s.params.offsetTable[s.pmode.toNat])[s.kind.toNat]'s.kind.isLt) := by
  rw [State.offRow, Vector.getElem?_eq_getElem h, Option.map_some]

/-- The table ends with the row of pack mode 8 (spec/41 R83). -/
theorem offRow_of_le (h : 9 ≤ s.pmode.toNat) : s.offRow = none := by
  rw [State.offRow, Vector.getElem?_eq_none h, Option.map_none]

theorem exec_offsetCode_of_row (h : s.offRow = some row) (t : Tier) (v : Word) :
    exec (offsetCode t v) s = .next (s.setOffset (tierValue row t v)) := by
  rw [exec_offset, chooseOffset, h]

theorem exec_offsetCode_of_no_row (h : s.offRow = none) (t : Tier) (v : Word) :
    exec (offsetCode t v) s = .fault .offsetTableIndex := by
  rw [exec_offset, chooseOffset, h]

theorem exec_runCode (t : Tier) (v : Word) (s : State) :
    exec (runCode t v) s = .next (s.setRun (tierValue s.nlRow t v)) := by
  rw [exec_run, chooseRun_next]

end Sys2Proof.Machine
end

section
/-! The statements settled: O19, O20, O21, O22. -/

open Sys2Proof.Machine

namespace Sys2Proof.Proofs

/-- Settles O19: each tier's range by `tierValue_range`; the codes of a value are `codeOfValue` and no other. -/
theorem tierRangesPartitionTheValues : Obligations.TierRangesPartitionTheValues := by
  intro row
  refine ⟨fun v hv => by rwa [tierValue_small], fun v hv => tierValue_range (t := .medium) hv,
    fun v hv => tierValue_range (t := .large) hv, row.fits, fun n => ?_⟩
  simp only [code_has_value_iff]
  exact ⟨fun hn => ⟨codeOfValue row n, ⟨hn, rfl⟩, fun _ hc => hc.2⟩, fun ⟨_, ⟨hn, _⟩, _⟩ => hn⟩

/-- Settles O20: the row exists for a legal pack mode, and over it no value wraps (`eq_on_each_tier`). -/
theorem offsetCodesSetOffset : Obligations.OffsetCodesSetOffset := by
  intro s v h
  exact eq_on_each_tier (f := fun t => exec (offsetCode t v) s) (g := fun w => .next (s.setOffset w))
    fun t => exec_offsetCode_of_row (offRow_of_lt h) t v

/-- Settles O21: there is no row, for whichever tier. -/
theorem offsetCodesStopWithoutTable : Obligations.OffsetCodesStopWithoutTable := by
  intro s v h
  have hexec (t : Tier) := exec_offsetCode_of_no_row (offRow_of_le h) t v
  exact ⟨hexec .small, hexec .medium, hexec .large⟩

/-- Settles O22: as O20, over the row of `LITLEN_TABLE`, which exists for every kind. -/
theorem runCodesSetRunAndBeginCopy : Obligations.RunCodesSetRunAndBeginCopy := by
  intro s v
  exact eq_on_each_tier (f := fun t => exec (runCode t v) s) (g := fun w => .next (s.setRun w))
    fun t => exec_runCode t v s

end Sys2Proof.Proofs
end

/-! # The token machine (spec/42): the rows of the phase table, START, and the end of every decode -/

section
/-!
SUPPORT. What a step runs, by the host's next move and by the fetch; the rows of the phase table that decode nothing; the
lengths of the types with extra bits; a START whose checks pass.
-/

namespace Sys2Proof.Machine

variable {s s' : State} {i : Instr} {c : Cause} {m : HostMove} {rest : List HostMove}

/-! ## What a step runs -/

/-- While the host waits a step is a step of the core. -/
theorem step_of_host_wait (h : s.host = .wait :: rest) : step s = coreStep { s with host := rest } := by
  simp only [step, h]

/-- A host move that holds a START runs it. -/
theorem step_of_start (h : s.host = m :: rest) (hi : startOf m = some i) : step s = exec i { s with host := rest } := by
  cases m with
  | regWrite offset width v => simp only [step, h, hostStep, hi]
  | _ => cases hi

theorem coreStep_of_fetched (h : fetch s = some (.ok (i, s'))) : coreStep s = exec i s' := by
  simp only [coreStep, h]

/-- A fetch that raises a cause takes the fault (spec/60 R142). -/
theorem coreStep_of_fetch_raise (h : fetch s = some (.error (.raise c s'))) : coreStep s = .next (s'.faultEntry c) := by
  simp only [coreStep, h, Stop.outcome]

/-! ## Rows that decode nothing -/

/-- At the end of a literal run the core makes the boundary test (spec/42 R96). -/
theorem coreStep_boundary (h : s.inLiteralRun) (hc : s.cnt = 0) : coreStep s = .next (boundaryTest s) := by
  rcases h with h | h <;> simp [coreStep, fetch, h, phaseStep, hc]

theorem boundaryTest_of_wp_zero (h : s.wp = 0) : boundaryTest s = s.setPhase .done := if_pos h

theorem boundaryTest_of_wp_ne_zero (h : s.wp ≠ 0) : boundaryTest s = s.setPhase .token := if_neg h

/-- At the end of a copy the literal run of `NLIT` bytes begins (spec/42 R107). -/
theorem coreStep_copyEnd (h : s.phase = .copy) (hc : s.cnt = 0) :
    coreStep s = .next ((s.setCnt s.nlit).setPhase .literal) := by
  simp only [coreStep, fetch, h, phaseStep, copyStep, hc, if_true]

/-! ## Types with extra bits -/

/-- The length of a type with extra bits, as a number (spec/42 R104). -/
theorem refLength_setWidth {w : Nat} (n : Nat) (x : BitVec w) :
    refLength n (x.setWidth 32) = BitVec.ofNat 32 ((ctypeRow n).base.toNat + x.toNat) := by
  rw [refLength, BitVec.ofNat_add, BitVec.ofNat_toNat, BitVec.ofNat_toNat, BitVec.setWidth_eq]

theorem exec_ct4 (x : BitVec 3) (s : State) :
    exec (.ct4 x) s = .next (s.setLength (BitVec.ofNat 32 (6 + x.toNat)) 3) := by
  rw [exec, execCt4, chooseType_next, refLength_setWidth]
  rfl

theorem exec_ct5 (x : BitVec 8) (s : State) :
    exec (.ct5 x) s = .next (s.setLength (BitVec.ofNat 32 (14 + x.toNat)) 3) := by
  rw [exec, execCt5, chooseType_next, refLength_setWidth]
  rfl

/-! ## START -/

/-- A START made while not BUSY writes the control bits and makes its checks (spec/44 R121). -/
theorem exec_start_of_not_busy (hb : s.busy = false) (v q : Bool) :
    exec (.start v q) s = beginDecode (s.setCtrl v q).armed := by
  simp [exec, execStart, hb]

/-- Positions inside the prepared buffer pass the check (spec/60 R139). -/
theorem positionBad_of_le (hrp : s.rp.toNat ≤ s.bufLen.toNat) (hwp : s.wp.toNat ≤ s.bufLen.toNat) :
    s.positionBad = false := by
  simp [State.positionBad, BitVec.le_def, hrp, hwp]

/-- The checks pass and the duties of the host are kept: phase `PREFIX` begins (spec/42 R94). -/
theorem beginDecode_of_checks (hm : s.pmode.toNat ≤ 8) (hp : s.positionBad = false)
    (hmax : s.bufLen.toNat ≤ s.params.maxBuf.toNat) (he : s.verifying = true → s.wp.toNat ≤ s.expLen.toNat) :
    beginDecode s = .next s.launched := by
  have hshort : ¬ (decide (s.expLen < s.wp) && s.verifying) = true := by
    rw [Bool.and_eq_true, decide_eq_true_eq]
    exact fun ⟨hlt, hv⟩ => (he hv).not_gt hlt
  rw [beginDecode, if_neg hm.not_gt, if_neg (by simp [hp]), if_neg (BitVec.not_lt.mpr hmax), if_neg hshort]

/-- `VERIFY_EN` is written hardwired, and read back once more hardwired to latch `VERIFY` (spec/10 R26, R28). -/
theorem verifyEnabled_setCtrl (s : State) (v q : Bool) :
    (s.setCtrl v q).verifyEnabled = (v && s.params.hasVerify) := by
  simp [State.verifyEnabled]

theorem verifying_setCtrl_armed (s : State) (v q : Bool) :
    (s.setCtrl v q).armed.verifying = (v && s.params.hasVerify) := by
  simp [State.verifying, verifyEnabled_setCtrl]

end Sys2Proof.Machine
end

section
/-! SUPPORT. The rows of the phase table (spec/42 R110): how a step of the core, and a move of the host, change `PHASE`. -/

namespace Sys2Proof.Machine

variable {s t : State}

/-- The rows of the phase table, each with the condition it is taken under and what it does to the registers that decide which
row comes next: `PHASE`, `CNT`, `WP` and the place in the token. -/
inductive TableRow (s t : State) : Prop
  | fault (hp : t.phase = .fault)
  /-- The boundary test ends the decode. -/
  | done (h : s.inLiteralRun) (hc : s.cnt = 0) (hw : s.wp = 0) (hp : t.phase = .done)
  /-- The boundary test goes on to the next token. -/
  | token (h : s.inLiteralRun) (hc : s.cnt = 0) (hw : s.wp ≠ 0) (hp : t.phase = .token) (hf : t.tokenField = .type)
      (hwp : t.wp = s.wp)
  /-- One literal byte. -/
  | literalMove (h : s.inLiteralRun) (hw : s.wp ≠ 0) (hp : t.phase = s.phase) (hwp : t.wp = s.wp - 1)
  /-- The type or the offset of a token. -/
  | field (h : s.phase = .token) (hp : t.phase = .token)
      (hf : (s.tokenField = .type ∧ t.tokenField = .offset) ∨ (s.tokenField = .offset ∧ t.tokenField = .run))
      (hwp : t.wp = s.wp)
  /-- The last code of a token: the copy begins. -/
  | copy (h : s.phase = .token) (hf : s.tokenField = .run) (hp : t.phase = .copy) (hc : t.cnt = s.len) (hwp : t.wp = s.wp)
  /-- One byte of a copy. -/
  | copyMove (h : s.phase = .copy) (hc : s.cnt ≠ 0) (hw : s.wp ≠ 0) (hp : t.phase = .copy) (hc' : t.cnt = s.cnt - 1)
      (hwp : t.wp = s.wp - 1)
  /-- The end of a copy: the literal run begins. -/
  | literal (h : s.phase = .copy) (hc : s.cnt = 0) (hp : t.phase = .literal) (hc' : t.cnt = s.nlit) (hwp : t.wp = s.wp)

/-- One move of a run takes a fault, or writes one byte and counts it. -/
theorem RunMove.fault_or_counted (h : RunMove s t) :
    t.phase = .fault ∨ (s.wp ≠ 0 ∧ t.phase = s.phase ∧ t.cnt = s.cnt - 1 ∧ t.wp = s.wp - 1) := by
  cases h with
  | fault c hc ht => exact .inl (ht ▸ rfl)
  | written hw v ht => subst ht; exact .inr ⟨hw, rfl, rfl, rfl⟩
  | mismatch hw v e ht => exact .inl (ht ▸ rfl)

/-- Every step of the core while BUSY is a row of the table. -/
theorem CoreMove.tableRow (h : CoreMove s t) (hb : s.busy = true) : TableRow s t := by
  cases h with
  | rest h ht => simp [hb] at h
  | boundary h hc ht =>
    by_cases hw : s.wp = 0
    · rw [boundaryTest_of_wp_zero hw] at ht
      exact .done h hc hw (ht ▸ rfl)
    · rw [boundaryTest_of_wp_ne_zero hw] at ht
      subst ht
      exact .token h hc hw rfl rfl rfl
  | literalStarved h hc h0 ht => exact .fault (ht ▸ rfl)
  | literal h hc h0 hle ht =>
    obtain hp | ⟨hw, hp, -, hwp⟩ := (writeByte_runMove ht).fault_or_counted
    · exact .fault hp
    · exact .literalMove h hw hp hwp
  | fieldStarved h u hm hsr h0 k ht => exact .fault (ht ▸ rfl)
  | type h hf u hm n k hlo hhi ht =>
    obtain ⟨a, b, rfl, -⟩ := hm.eq_setCursor
    subst ht
    exact .field h h (.inl ⟨hf, rfl⟩) rfl
  | offset h hf u hm n ht =>
    obtain ⟨a, b, rfl, -⟩ := hm.eq_setCursor
    subst ht
    exact .field h h (.inr ⟨hf, rfl⟩) rfl
  | run h hf u hm n ht =>
    obtain ⟨a, b, rfl, -⟩ := hm.eq_setCursor
    subst ht
    exact .copy h hf rfl rfl rfl
  | copyEnd h hc ht =>
    subst ht
    exact .literal h hc rfl rfl rfl
  | copy h hc ht =>
    obtain hp | ⟨hw, hp, hc', hwp⟩ := (backrefStep_runMove ht).fault_or_counted
    · exact .fault hp
    · exact .copyMove h hc hw (hp.trans h) hc' hwp

/-- A step of the core that changes `PHASE` is made while BUSY. -/
theorem busy_of_coreStep_phase (h : coreStep s = .next t) (hne : t.phase ≠ s.phase) : s.busy = true := by
  by_contra hb
  rw [coreStep_of_not_busy (by simpa using hb), Host.Outcome.next.injEq] at h
  exact hne (h ▸ rfl)

/-- The rows that change `PHASE` (spec/42 R110). -/
theorem TableRow.phase_change (h : TableRow s t) (hne : t.phase ≠ s.phase) :
    (s.inLiteralRun ∧ s.cnt = 0 ∧ s.wp = 0 ∧ t.phase = .done) ∨
    (s.inLiteralRun ∧ s.cnt = 0 ∧ s.wp ≠ 0 ∧ t.phase = .token) ∨
    (s.phase = .token ∧ t.phase = .copy ∧ t.cnt = s.len) ∨
    (s.phase = .copy ∧ s.cnt = 0 ∧ t.phase = .literal ∧ t.cnt = s.nlit) ∨
    t.phase = .fault := by
  cases h with
  | fault hp => exact .inr (.inr (.inr (.inr hp)))
  | done h hc hw hp => exact .inl ⟨h, hc, hw, hp⟩
  | token h hc hw hp => exact .inr (.inl ⟨h, hc, hw, hp⟩)
  | copy h hf hp hc => exact .inr (.inr (.inl ⟨h, hp, hc⟩))
  | literal h hc hp hc' => exact .inr (.inr (.inr (.inl ⟨h, hc, hp, hc'⟩)))
  | literalMove h hw hp => exact absurd hp hne
  | field h hp | copyMove h hc hw hp => exact absurd (hp.trans h.symm) hne

/-- A START changes `PHASE` only while not BUSY, to `PREFIX` or `FAULT` (spec/42 R94, spec/44 R121). -/
theorem execStart_phase_change {v q : Bool} (h : execStart v q s = .next t) (hne : t.phase ≠ s.phase) :
    s.busy = false ∧ (t.phase = .prefixRun ∨ t.phase = .fault) := by
  rcases execStart_next h with ⟨-, rfl⟩ | ⟨hb, hd⟩
  · exact absurd rfl hne
  · refine ⟨hb, ?_⟩
    rcases beginDecode_next hd with ⟨-, rfl⟩ | ⟨-, -, rfl⟩ | ⟨-, -, -, -, rfl⟩
    · exact .inr rfl
    · exact .inr rfl
    · exact .inl rfl

theorem writeReg_phase (r : Reg) (v : Word) (s : State) : (writeReg r v s).phase = s.phase := by
  obtain ⟨_, _, _, _, _, _, _, _, hw, -⟩ := writeReg_frame r v s
  rw [hw]

/-- Of the host's other moves only reset changes `PHASE`, to `IDLE` (spec/70 R149, R150). -/
theorem hostAct_phase {m : HostMove} (h : hostAct m s = .next t) :
    t.phase = s.phase ∨ (m = .reset ∧ t.phase = .idle) := by
  cases m with
  | reset => exact .inr ⟨rfl, Host.Outcome.next.inj h ▸ rfl⟩
  | wait => exact .inl (Host.Outcome.next.inj h ▸ rfl)
  | regRead offset width =>
    left
    simp only [hostAct] at h
    split at h
    · obtain ⟨data, reads, hr⟩ := readReg_seen (regAt offset) s
      rw [← Host.Outcome.next.inj h, hr]
      rfl
    · cases h
  | regWrite offset width v =>
    left
    simp only [hostAct] at h
    split at h
    · rw [← Host.Outcome.next.inj h]
      split
      · rfl
      · exact writeReg_phase _ v s
    · cases h
  | bufRead | bufWrite | expRead | expWrite | expSupply =>
    obtain ⟨-, -, rfl⟩ := bufferAccess_next h
    exact .inl rfl

end Sys2Proof.Machine
end

section
/-! SUPPORT. How many steps a decode has left, and that each step of the core has fewer left than the one before (R109). -/

namespace Sys2Proof.Machine

variable {s t : State}

/-! ## The number of steps left -/

/-- How many steps are left, at most, with `w` bytes of room and `c` moves of a copy to make. If the copy fits, each of its
moves takes one step and one byte of room, and of the four steps a byte is given the other three stay for what follows; if it
does not, it ends in a fault once the room is used up. -/
def copyBudget (w c : Nat) : Nat := max (w + 1) (4 * w + 3 - 3 * c)

theorem copyBudget_pos (w c : Nat) : 0 < copyBudget w c := (Nat.succ_pos w).trans_le (le_max_left _ _)

/-- One move of a copy uses up a step. -/
theorem copyBudget_pred {w c : Nat} (hw : 0 < w) (hc : 0 < c) : copyBudget (w - 1) (c - 1) < copyBudget w c := by
  unfold copyBudget
  omega

/-- A longer copy leaves less room for later tokens. -/
theorem copyBudget_anti {w c d : Nat} (h : c ≤ d) : copyBudget w d ≤ copyBudget w c := by
  unfold copyBudget
  omega

/-- How many codes of a token are still to come. -/
def TokenField.codesLeft : TokenField → Nat
  | .type => 3
  | .offset => 2
  | .run => 1

/-- How many steps of the core a decode has left, at most. A token not yet complete counts with the shortest copy, of two
bytes. -/
def State.stepBudget (s : State) : Nat :=
  match s.phase with
  | .idle => 0
  | .prefixRun => 4 * s.wp.toNat + 2
  | .token => s.tokenField.codesLeft + copyBudget s.wp.toNat 2
  | .copy => copyBudget s.wp.toNat s.cnt.toNat
  | .literal => 4 * s.wp.toNat + 2
  | .done => 0
  | .fault => 0

theorem stepBudget_literalRun (h : s.inLiteralRun) : s.stepBudget = 4 * s.wp.toNat + 2 := by
  rcases h with h | h <;> simp only [State.stepBudget, h]

theorem stepBudget_token (h : s.phase = .token) :
    s.stepBudget = s.tokenField.codesLeft + copyBudget s.wp.toNat 2 := by
  simp only [State.stepBudget, h]

theorem stepBudget_copy (h : s.phase = .copy) : s.stepBudget = copyBudget s.wp.toNat s.cnt.toNat := by
  simp only [State.stepBudget, h]

theorem stepBudget_ended (h : s.ended) : s.stepBudget = 0 := by
  rcases h with h | h <;> simp only [State.stepBudget, h]

/-- A decode under way has a step left. -/
theorem stepBudget_pos (hb : s.busy = true) : 0 < s.stepBudget := by
  cases hp : s.phase with
  | prefixRun => rw [stepBudget_literalRun (.inl hp)]; exact Nat.succ_pos _
  | token => rw [stepBudget_token hp]; exact Nat.add_pos_right _ (copyBudget_pos _ _)
  | copy => rw [stepBudget_copy hp]; exact copyBudget_pos _ _
  | literal => rw [stepBudget_literalRun (.inr hp)]; exact Nat.succ_pos _
  | idle | done | fault => simp [State.busy, Phase.busy, hp] at hb

/-- The bound of R109, in steps. -/
theorem stepBudget_le (s : State) : s.stepBudget ≤ 4 * s.wp.toNat + 4 := by
  cases hp : s.phase with
  | token =>
    have hf : s.tokenField.codesLeft ≤ 3 := by cases s.tokenField <;> decide
    rw [stepBudget_token hp, copyBudget]
    omega
  | copy => rw [stepBudget_copy hp, copyBudget]; omega
  | prefixRun => rw [stepBudget_literalRun (.inl hp)]; omega
  | literal => rw [stepBudget_literalRun (.inr hp)]; omega
  | idle | done | fault => simp only [State.stepBudget, hp]; omega

/-! ## Each step uses up the budget -/

/-- A row of the table leaves fewer steps, and the decode ended or under way. The boundary test pays for the codes of the next
token, and a token for its copy, which is of two bytes or more (spec/42 R109). -/
theorem TableRow.stepBudget_lt (h : TableRow s t) (hb : s.busy = true) (hs : s.lengthFits) :
    t.stepBudget < s.stepBudget ∧ (t.ended ∨ t.busy = true) := by
  have ended (ht : t.ended) : t.stepBudget < s.stepBudget ∧ (t.ended ∨ t.busy = true) :=
    ⟨stepBudget_ended ht ▸ stepBudget_pos hb, .inl ht⟩
  have busy {p : Phase} (hp : t.phase = p) (h : p.busy = true) : t.ended ∨ t.busy = true :=
    .inr (by rw [State.busy, hp, h])
  cases h with
  | fault hp => exact ended (.inr hp)
  | done h hc hw hp => exact ended (.inl hp)
  | token h hc hw hp hf hwp =>
    have hpos := toNat_pos hw
    refine ⟨?_, busy hp rfl⟩
    rw [stepBudget_token hp, hf, hwp, stepBudget_literalRun h, copyBudget, TokenField.codesLeft]
    omega
  | literalMove h hw hp hwp =>
    have hpos := toNat_pos hw
    refine ⟨?_, busy hp hb⟩
    have ht : t.inLiteralRun := by rwa [State.inLiteralRun, hp]
    rw [stepBudget_literalRun ht, stepBudget_literalRun h, hwp, toNat_pred hw]
    omega
  | field h hp hf hwp =>
    refine ⟨?_, busy hp rfl⟩
    rw [stepBudget_token hp, stepBudget_token h, hwp]
    refine Nat.add_lt_add_right ?_ _
    rcases hf with ⟨hf, hf'⟩ | ⟨hf, hf'⟩ <;> rw [hf, hf'] <;> decide
  | copy h hf hp hc hwp =>
    obtain ⟨hlen, -⟩ := hs.1 (.inl ⟨h, by simp [hf]⟩)
    refine ⟨?_, busy hp rfl⟩
    rw [stepBudget_copy hp, stepBudget_token h, hf, hc, hwp]
    exact Nat.lt_one_add_iff.mpr (copyBudget_anti hlen)
  | copyMove h hc hw hp hc' hwp =>
    refine ⟨?_, busy hp rfl⟩
    rw [stepBudget_copy hp, stepBudget_copy h, hc', hwp, toNat_pred hw, toNat_pred hc]
    exact copyBudget_pred (toNat_pos hw) (toNat_pos hc)
  | literal h hc hp hc' hwp =>
    refine ⟨?_, busy hp rfl⟩
    rw [stepBudget_literalRun (.inr hp), stepBudget_copy h, hwp, hc, copyBudget]
    exact Nat.le_max_right _ _

/-- A decode that has ended or is under way ends within its budget: the invariant gives each step, and keeps the lengths the
budget counts on. -/
theorem Inv.ends_within_budget (hi : Inv s) (hs : s.host = []) (h : s.ended ∨ s.busy = true) :
    ∃ n t, n ≤ s.stepBudget ∧ run n s = .next t ∧ t.ended := by
  induction hk : s.stepBudget using Nat.strong_induction_on generalizing s with
  | h k ih =>
    rcases h with he | hb
    · exact ⟨0, s, Nat.zero_le k, rfl, he⟩
    · obtain ⟨t, ht⟩ := hi.coreStep_completes
      obtain ⟨hlt, hgoes⟩ := ((coreStep_next ht).tableRow hb).stepBudget_lt hb hi.lengthFits
      have hhost : t.host = [] := (coreStep_descends ht).host.trans hs
      rw [hk] at hlt
      obtain ⟨n, u, hn, hrun, hu⟩ := ih _ hlt (coreStep_keeps_inv hi ht) hhost hgoes rfl
      refine ⟨n + 1, u, hn.trans_lt hlt, ?_, hu⟩
      rw [run, step_of_host_nil hs, ht]
      exact hrun

end Sys2Proof.Machine
end

section
/-! The statements settled: O57, O51, O15, O17, O35, O36, O37. -/

open Sys2Proof.Machine

namespace Sys2Proof.Proofs

/-- Settles O57: each step uses up part of `State.stepBudget`, which is at most the bound. -/
theorem everyDecodeTerminates : Obligations.EveryDecodeTerminates := by
  intro s hi hs hb
  obtain ⟨n, t, hn, hrun, ht⟩ := hi.ends_within_budget hs (.inr hb)
  exact ⟨n, t, hn.trans (stepBudget_le s), hrun, ht⟩

/-- Settles O51: a step of the core by `CoreMove.tableRow`; of the host's moves only START and reset change `PHASE`. -/
theorem phaseChangesFollowTheTable : Obligations.PhaseChangesFollowTheTable := by
  intro s t h hne
  rcases step_next h with ⟨hs, hc⟩ | ⟨rest, hs, hc⟩ | ⟨m, rest, hs, ⟨v, q, hm, hx⟩ | ⟨-, -, ha⟩⟩
  · have hb := busy_of_coreStep_phase hc hne
    exact .inr (.inr ⟨.inl hs, hb, ((coreStep_next hc).tableRow hb).phase_change hne⟩)
  · have hb := busy_of_coreStep_phase hc hne
    exact .inr (.inr ⟨.inr (by rw [hs]; rfl), hb, ((coreStep_next hc).tableRow hb).phase_change hne⟩)
  · obtain ⟨hb, hp⟩ := execStart_phase_change hx hne
    exact .inr (.inl ⟨hb, ⟨m, by rw [hs]; rfl, by rw [hm]; rfl⟩, hp⟩)
  · rcases hostAct_phase ha with hp | ⟨rfl, hp⟩
    · exact absurd hp hne
    · exact .inl ⟨by rw [hs]; rfl, hp⟩

/-- Settles O15: by the host's next move, and by what the fetch answers. -/
theorem stepRunsTheDecodedInstruction : Obligations.StepRunsTheDecodedInstruction := by
  intro s s' i c m rest
  refine ⟨fun hs hf => ?_, fun hs hf => ?_, step_of_start, fun hs hf => ?_, fun hs hf => ?_⟩
  · rw [step_of_host_nil hs, coreStep_of_fetched hf]
  · rw [step_of_host_wait hs, coreStep_of_fetched hf]
  · rw [step_of_host_nil hs, coreStep_of_fetch_raise hf]
    rfl
  · rw [step_of_host_wait hs, coreStep_of_fetch_raise hf]
    rfl

/-- Settles O17: each type is a row of `CTYPE_TABLE`, its extra bits added without wrap. -/
theorem typeCodesSetLengthAndKind : Obligations.TypeCodesSetLengthAndKind :=
  fun s x y => ⟨rfl, rfl, rfl, rfl, exec_ct4 x s, exec_ct5 y s⟩

/-- Settles O35: in `COPY` with no move left the core sets both registers. -/
theorem copyEndBeginsLiteralRun : Obligations.CopyEndBeginsLiteralRun :=
  fun _ hs hp hc => (step_of_host_nil hs).trans (coreStep_copyEnd hp hc)

/-- Settles O36, by the two answers of the boundary test. -/
theorem boundaryTestEndsOrContinues : Obligations.BoundaryTestEndsOrContinues := by
  intro s hs hl hc
  have hstep : step s = .next (boundaryTest s) := (step_of_host_nil hs).trans (coreStep_boundary hl hc)
  refine ⟨fun hw => ?_, fun hw => ?_⟩
  · rw [hstep, boundaryTest_of_wp_zero hw]
    rfl
  · rw [hstep, boundaryTest_of_wp_ne_zero hw]
    rfl

/-- Settles O37: the checks are made on the state with the control bits written and `VERIFY` latched, and pass. -/
theorem startBeginsTheDecode : Obligations.StartBeginsTheDecode := by
  intro s v q hb hm hrp hwp hmax he
  have hbegin : beginDecode (s.setCtrl v q).armed = .next (s.setCtrl v q).armed.launched :=
    beginDecode_of_checks hm (positionBad_of_le hrp hwp) hmax fun hv => he (verifying_setCtrl_armed s v q ▸ hv)
  rw [exec_start_of_not_busy hb, hbegin, State.armed, verifyEnabled_setCtrl]
  rfl

end Sys2Proof.Proofs
end

/-! # The output writer (spec/43): moves of one byte, runs of moves, and the comparator -/

section
/-!
SUPPORT. What one counted move does: LITB, and with it the move of a literal run and the step of a copy, which are LITB of the
byte they read once their own checks have passed.
-/

namespace Sys2Proof.Machine

variable {s t u : State} {v : Byte}

/-! ## What LITB leaves -/

/-- After a move that completed: the byte lies at `WP` - 1 and the move is counted (spec/43 R111, spec/42 R95). -/
def State.wrote (s : State) (v : Byte) : State := (s.putByte (s.wp - 1) v).setCnt (s.cnt - 1)

/-- After a mismatch: the byte is written, fault 0x21 is taken, the move is not counted (spec/43 R112, spec/60 R137). -/
def State.disagreed (s : State) (v : Byte) : State :=
  ((s.putByte (s.wp - 1) v).setMismatch (s.wp - 1) v (s.expByte (s.wp.toNat - 1))).faultEntry .integrityMismatch

theorem bufByte_wrote (hw : s.wp ≠ 0) (v : Byte) (a : Nat) :
    (s.wrote v).bufByte a = if a = s.wp.toNat - 1 then v else s.bufByte a := by
  rw [← toNat_pred hw]
  exact bufByte_putByte s (s.wp - 1) v a

theorem bufByte_disagreed (hw : s.wp ≠ 0) (v : Byte) (a : Nat) :
    (s.disagreed v).bufByte a = if a = s.wp.toNat - 1 then v else s.bufByte a := bufByte_wrote hw v a

/-! ## When LITB leaves it -/

theorem exec_litb_of_wp_zero (v : Byte) (h : s.wp = 0) : exec (.litb v) s = .next (s.faultEntry .writeUnderflow) := by
  rw [exec_litb, writeByte, if_pos h]
  rfl

/-- With room, LITB is the write and then, if `VERIFY` is 1, the compare. -/
theorem exec_litb_of_room (v : Byte) (hw : s.wp ≠ 0) (hle : s.wp.toNat ≤ s.bufLen.toNat) :
    exec (.litb v) s = settle (countDown
      (if s.verifying then verifyCompare (s.wp - 1) v (s.putByte (s.wp - 1) v) else .ok (s.putByte (s.wp - 1) v))) := by
  have hpos := toNat_pos hw
  have hlt : s.wp - 1 < s.bufLen := by
    rw [BitVec.lt_def, toNat_pred hw]
    omega
  rw [exec_litb, writeByte, if_neg hw, if_pos hlt]

theorem exec_litb_unverified (v : Byte) (hw : s.wp ≠ 0) (hle : s.wp.toNat ≤ s.bufLen.toNat) (hv : s.verifying = false) :
    exec (.litb v) s = .next (s.wrote v) := by
  rw [exec_litb_of_room v hw hle, hv]
  rfl

/-- The compare of a verified LITB, where `EXP` reaches (spec/43 R112). -/
theorem exec_litb_verified (v : Byte) (hw : s.wp ≠ 0) (hle : s.wp.toNat ≤ s.bufLen.toNat) (hv : s.verifying = true)
    (he : s.wp.toNat ≤ s.expLen.toNat) :
    exec (.litb v) s = .next (if s.expByte (s.wp.toNat - 1) = v then s.wrote v else s.disagreed v) := by
  have hpos := toNat_pos hw
  have hlt : s.wp - 1 < s.expLen := by
    rw [BitVec.lt_def, toNat_pred hw]
    omega
  rw [exec_litb_of_room v hw hle, if_pos hv, verifyCompare, if_pos (by exact hlt), State.disagreed, ← toNat_pred hw]
  by_cases hb : s.expByte (s.wp - 1).toNat = v
  · rw [if_pos (by exact hb), if_pos hb]
    rfl
  · rw [if_neg (by exact hb), if_neg hb]
    rfl

/-- Everything LITB can answer. -/
theorem exec_litb_next (h : exec (.litb v) s = .next t) :
    t = s.faultEntry .writeUnderflow ∨ (s.wp ≠ 0 ∧ t = s.wrote v) ∨ t = s.disagreed v := by
  rw [exec_litb] at h
  rcases settle_next h with hr | ⟨c, u, hr, rfl⟩
  · obtain ⟨u, hu, rfl⟩ := countDown_ok hr
    obtain ⟨hw, -, rfl, -⟩ := writeByte_ok hu
    exact .inr (.inl ⟨hw, rfl⟩)
  · rcases writeByte_error (countDown_error hr) with ⟨-, he⟩ | ⟨-, -, he⟩ | ⟨-, -, -, he⟩ | ⟨-, -, -, -, he⟩ <;> cases he
    · exact .inl rfl
    · exact .inr (.inr rfl)

/-- LITB that does not end in FAULT has written its byte. -/
theorem exec_litb_completed (h : exec (.litb v) s = .next t) (hp : t.phase ≠ .fault) : s.wp ≠ 0 ∧ t = s.wrote v := by
  rcases exec_litb_next h with rfl | hw | rfl
  · exact absurd rfl hp
  · exact hw
  · exact absurd rfl hp

/-! ## The move of a literal run -/

/-- A move of a literal run that has its stream byte is LITB of it (spec/43 R113). -/
theorem coreStep_literalMove (h : s.inLiteralRun) (hc : s.cnt ≠ 0) (h0 : s.rp ≠ 0) (hle : s.rp.toNat ≤ s.bufLen.toNat) :
    coreStep s = exec (.litb (s.bufByte (s.rp.toNat - 1))) (s.setCursor (s.rp - 1) s.sr) := by
  apply coreStep_of_fetched
  rw [fetch_literalRun h hc, fetchLiteral, readByte_of h0 hle]
  rfl

/-- A move of a literal run at the end of the stream (spec/60 R133). -/
theorem coreStep_literalStarved (h : s.inLiteralRun) (hc : s.cnt ≠ 0) (h0 : s.rp = 0) :
    coreStep s = .next (s.faultEntry .readUnderflow) := by
  apply coreStep_of_fetch_raise
  rw [fetch_literalRun h hc, fetchLiteral, readByte, if_pos h0]

/-- A move of a literal run that does not end in FAULT has read and written its byte. -/
theorem coreStep_literalMove_completed (h : s.inLiteralRun) (hc : s.cnt ≠ 0) (ht : coreStep s = .next t)
    (hp : t.phase ≠ .fault) :
    s.rp ≠ 0 ∧ s.wp ≠ 0 ∧ t = (s.setCursor (s.rp - 1) s.sr).wrote (s.bufByte (s.rp.toNat - 1)) := by
  rcases hb : readByte s with e | ⟨b, s'⟩
  · have hf : fetch s = some (.error e) := by rw [fetch_literalRun h hc, fetchLiteral, hb]
    rcases readByte_error hb with ⟨h0, -⟩ | ⟨-, rfl⟩
    · rw [coreStep_literalStarved h hc h0, Host.Outcome.next.injEq] at ht
      exact absurd (ht ▸ rfl) hp
    · simp [coreStep, hf, Stop.outcome] at ht
  · obtain ⟨h0, hle, -, -⟩ := readByte_ok hb
    rw [coreStep_literalMove h hc h0 hle] at ht
    exact ⟨h0, exec_litb_completed ht hp⟩

/-! ## The step of a copy -/

/-- A copy with a move left makes a back-reference step (spec/42 R107). -/
theorem coreStep_copyMove (h : s.phase = .copy) (hc : s.cnt ≠ 0) : coreStep s = settle (countDown (backrefStep s)) := by
  simp only [coreStep, fetch, h, phaseStep, copyStep, if_neg hc]

theorem refAddr_of_wp_ne_zero (h : s.wp ≠ 0) : s.refAddr = s.wp.toNat - 1 + s.off.toNat := by
  rw [State.refAddr, toNat_pred h]

/-! The checks of a step in their order (spec/43 R115). -/

theorem backrefStep_of_wp_zero (hw : s.wp = 0) : backrefStep s = .error (.raise .writeUnderflow s) := if_pos hw

theorem backrefStep_of_off_zero (hw : s.wp ≠ 0) (ho : s.off = 0) : backrefStep s = .error (.raise .backrefZero s) := by
  rw [backrefStep, if_neg hw, if_pos ho]

theorem backrefStep_of_wtop_le (hw : s.wp ≠ 0) (ho : s.off ≠ 0) (hr : s.wtop.toNat ≤ s.refAddr) :
    backrefStep s = .error (.raise .backrefRange s) := by
  rw [backrefStep, if_neg hw, if_neg ho, if_pos hr]

/-- The checks passed, the step writes its source byte. -/
theorem backrefStep_of_refAddr_lt (hw : s.wp ≠ 0) (ho : s.off ≠ 0) (hr : s.refAddr < s.wtop.toNat)
    (hb : s.refAddr < s.bufLen.toNat) : backrefStep s = writeByte (s.bufByte s.refAddr) s := by
  rw [backrefStep, if_neg hw, if_neg ho, if_neg (by omega), bufLoad_of_lt hb]

/-- A copy whose checks pass makes LITB of its source byte. -/
theorem coreStep_copyMove_of_refAddr_lt (h : s.phase = .copy) (hc : s.cnt ≠ 0) (hw : s.wp ≠ 0) (ho : s.off ≠ 0)
    (hr : s.refAddr < s.wtop.toNat) (hb : s.refAddr < s.bufLen.toNat) :
    coreStep s = exec (.litb (s.bufByte s.refAddr)) s := by
  rw [coreStep_copyMove h hc, backrefStep_of_refAddr_lt hw ho hr hb, exec_litb]

/-- A copy step that does not end in FAULT has passed its checks and written its byte. -/
theorem coreStep_copyMove_completed (h : s.phase = .copy) (hc : s.cnt ≠ 0) (ht : coreStep s = .next t)
    (hp : t.phase ≠ .fault) :
    s.wp ≠ 0 ∧ s.off ≠ 0 ∧ s.refAddr < s.wtop.toNat ∧ s.refAddr < s.bufLen.toNat ∧
      t = s.wrote (s.bufByte s.refAddr) := by
  rw [coreStep_copyMove h hc] at ht
  rcases settle_next ht with hr | ⟨c, u, -, rfl⟩
  · obtain ⟨u, hu, rfl⟩ := countDown_ok hr
    obtain ⟨ho, htop, hlen, hwrite⟩ := backrefStep_ok hu
    obtain ⟨hw, -, rfl, -⟩ := writeByte_ok hwrite
    exact ⟨hw, ho, htop, hlen, rfl⟩
  · exact absurd rfl hp

end Sys2Proof.Machine
end

section
/-! SUPPORT. Runs of moves that complete (spec/43 R114, R116). -/

namespace Sys2Proof.Machine

variable {s t u : State} {n : Nat}

/-! ## Runs -/

/-- IDLE, DONE and FAULT stay, however many steps the core takes. -/
theorem run_of_not_busy (hs : s.host = []) (hb : s.busy = false) (n : Nat) : run n s = .next s := by
  induction n with
  | zero => rfl
  | succ n ih => rw [run, step_of_host_nil hs, coreStep_of_not_busy hb]; exact ih

theorem run_succ_of_coreStep (hs : s.host = []) (h : coreStep s = .next u) (n : Nat) : run (n + 1) s = run n u := by
  rw [run, step_of_host_nil hs, h]

/-- A run of the core that does not end in FAULT begins with a step that does not. -/
theorem run_succ_completed (hs : s.host = []) (h : run (n + 1) s = .next t) (hp : t.phase ≠ .fault) :
    ∃ u, coreStep s = .next u ∧ u.phase ≠ .fault ∧ u.host = [] ∧ run n u = .next t := by
  rcases hc : coreStep s with u | f | r
  · rw [run_succ_of_coreStep hs hc] at h
    have hu : u.host = [] := (coreStep_descends hc).host.trans hs
    refine ⟨u, rfl, fun hf => ?_, hu, h⟩
    have hb : u.busy = false := by rw [State.busy, hf]; rfl
    rw [run_of_not_busy hu hb, Host.Outcome.next.injEq] at h
    exact hp (h ▸ hf)
  · simp [run, step_of_host_nil hs, hc] at h
  · simp [run, step_of_host_nil hs, hc] at h

/-- A count of `n + 1` moves, one of them made. -/
theorem ne_zero_and_toNat_pred {x : Word} (h : x.toNat = n + 1) : x ≠ 0 ∧ (x - 1).toNat = n := by
  have h0 : x ≠ 0 := fun h0 => by simp [h0] at h
  exact ⟨h0, by rw [toNat_pred h0, h]; rfl⟩

/-- A position less the count of the moves made. -/
theorem toNat_sub_of_toNat_eq {x c : Word} (hc : c.toNat = n) (h : n ≤ x.toNat) : (x - c).toNat = x.toNat - n := by
  subst hc
  exact BitVec.toNat_sub_of_le h

/-! ## Literal runs -/

/-- What `n` moves of a literal run that complete have done. -/
structure LiteralRunDone (n : Nat) (s t : State) : Prop where
  regs : t = { s with rp := s.rp - s.cnt, wp := s.wp - s.cnt, cnt := 0, buf := t.buf }
  le_rp : n ≤ s.rp.toNat
  le_wp : n ≤ s.wp.toNat
  bytes : s.rp.toNat ≤ s.wp.toNat → ∀ j, 1 ≤ j → j ≤ n → t.bufByte (s.wp.toNat - j) = s.bufByte (s.rp.toNat - j)

theorem LiteralRunDone.toNat_wp (h : LiteralRunDone n s t) (hc : s.cnt.toNat = n) : t.wp.toNat = s.wp.toNat - n :=
  (congrArg (fun t : State => t.wp.toNat) h.regs).trans (toNat_sub_of_toNat_eq hc h.le_wp)

/-- By induction on the moves: the first writes its byte, which the others leave, since `WP` is below it; and it changes no byte
the others read, since `RP` is not above `WP`. -/
theorem literalRunDone_of_run (hs : s.host = []) (hl : s.inLiteralRun) (hc : s.cnt.toNat = n) (h : run n s = .next t)
    (hp : t.phase ≠ .fault) : LiteralRunDone n s t := by
  induction n generalizing s with
  | zero =>
    obtain rfl : s = t := Host.Outcome.next.inj h
    have hc0 : s.cnt = 0 := BitVec.eq_of_toNat_eq hc
    have hsub (x : Word) : x - s.cnt = x := by rw [hc0, sub_zero]
    exact ⟨by rw [hsub, hsub, ← hc0], Nat.zero_le _, Nat.zero_le _, fun _ j h1 hj => by omega⟩
  | succ n ih =>
    obtain ⟨hc0, hcu⟩ := ne_zero_and_toNat_pred hc
    obtain ⟨u, hstep, hup, hu, hrun⟩ := run_succ_completed hs h hp
    obtain ⟨hr0, hw0, hwrote⟩ := coreStep_literalMove_completed hl hc0 hstep hup
    have hbyte : ∀ a, u.bufByte a = if a = s.wp.toNat - 1 then s.bufByte (s.rp.toNat - 1) else s.bufByte a := by
      rw [hwrote]
      exact bufByte_wrote (s := s.setCursor (s.rp - 1) s.sr) hw0 _
    have hkept := (run_descends hu hrun).bytes
    have hrp : u.rp.toNat = s.rp.toNat - 1 := by rw [hwrote]; exact toNat_pred hr0
    have hwp : u.wp.toNat = s.wp.toNat - 1 := by rw [hwrote]; exact toNat_pred hw0
    have hrest : LiteralRunDone n u t := ih hu (by rw [hwrote]; exact hl) (by rw [hwrote]; exact hcu) hrun
    have hrpos := toNat_pos hr0
    have hwpos := toNat_pos hw0
    have hle_rp := hrest.le_rp
    have hle_wp := hrest.le_wp
    refine ⟨?_, by omega, by omega, fun hle j h1 hj => ?_⟩
    · rw [← sub_sub_sub_cancel_right s.rp s.cnt 1, ← sub_sub_sub_cancel_right s.wp s.cnt 1]
      subst hwrote
      exact hrest.regs
    · rcases Nat.eq_or_lt_of_le h1 with rfl | h1
      · rw [hkept _ (.inr hwp.le), hbyte, if_pos rfl]
      · have hj' := hrest.bytes (by omega) (j - 1) (by omega) (by omega)
        rw [hwp, hrp, hbyte, if_neg (by omega)] at hj'
        rwa [show s.wp.toNat - j = s.wp.toNat - 1 - (j - 1) by omega,
          show s.rp.toNat - j = s.rp.toNat - 1 - (j - 1) by omega]

/-- With stream and room a literal run completes. -/
theorem literalRun_completes (hs : s.host = []) (hl : s.inLiteralRun) (hc : s.cnt.toNat = n) (hr : n ≤ s.rp.toNat)
    (hle : s.rp.toNat ≤ s.wp.toNat) (hb : s.wp.toNat ≤ s.bufLen.toNat) (hv : s.verifying = false) :
    ∃ t, run n s = .next t ∧ t.phase = s.phase := by
  induction n generalizing s with
  | zero => exact ⟨s, rfl, rfl⟩
  | succ n ih =>
    obtain ⟨hc0, hcu⟩ := ne_zero_and_toNat_pred hc
    have hr0 : s.rp ≠ 0 := fun h => by simp [h] at hr
    have hw0 : s.wp ≠ 0 := fun h => hr0 (BitVec.eq_of_toNat_eq (by simpa [h] using hle))
    have hrp := toNat_pred hr0
    have hwp := toNat_pred hw0
    have hstep : coreStep s = .next ((s.setCursor (s.rp - 1) s.sr).wrote (s.bufByte (s.rp.toNat - 1))) :=
      (coreStep_literalMove hl hc0 hr0 (hle.trans hb)).trans (exec_litb_unverified _ hw0 hb hv)
    rw [run_succ_of_coreStep hs hstep]
    exact ih hs hl hcu (show n ≤ (s.rp - 1).toNat by omega) (show (s.rp - 1).toNat ≤ (s.wp - 1).toNat by omega)
      (show (s.wp - 1).toNat ≤ s.bufLen.toNat by omega) hv

/-! ## Copies -/

/-- What `n` steps of a copy that complete have done: each byte written equals the byte `OFF` above it. -/
structure CopyDone (n : Nat) (s t : State) : Prop where
  regs : t = { s with wp := s.wp - s.cnt, cnt := 0, buf := t.buf }
  le_wp : n ≤ s.wp.toNat
  off_ne : 0 < n → s.off ≠ 0
  repeats : ∀ j, 1 ≤ j → j ≤ n → t.bufByte (s.wp.toNat - j) = t.bufByte (s.wp.toNat - j + s.off.toNat)

theorem CopyDone.toNat_wp (h : CopyDone n s t) (hc : s.cnt.toNat = n) : t.wp.toNat = s.wp.toNat - n :=
  (congrArg (fun t : State => t.wp.toNat) h.regs).trans (toNat_sub_of_toNat_eq hc h.le_wp)

/-- By induction on the steps: the first makes its byte equal the one `OFF` above, and the others leave both, since `WP` is
below them. -/
theorem copyDone_of_run (hs : s.host = []) (hl : s.phase = .copy) (hc : s.cnt.toNat = n) (h : run n s = .next t)
    (hp : t.phase ≠ .fault) : CopyDone n s t := by
  induction n generalizing s with
  | zero =>
    obtain rfl : s = t := Host.Outcome.next.inj h
    have hc0 : s.cnt = 0 := BitVec.eq_of_toNat_eq hc
    have hsub (x : Word) : x - s.cnt = x := by rw [hc0, sub_zero]
    exact ⟨by rw [hsub, ← hc0], Nat.zero_le _, fun h0 => absurd h0 (lt_irrefl 0), fun j h1 hj => by omega⟩
  | succ n ih =>
    obtain ⟨hc0, hcu⟩ := ne_zero_and_toNat_pred hc
    obtain ⟨u, hstep, hup, hu, hrun⟩ := run_succ_completed hs h hp
    obtain ⟨hw0, ho, -, -, hwrote⟩ := coreStep_copyMove_completed hl hc0 hstep hup
    have hbyte : ∀ a, u.bufByte a = if a = s.wp.toNat - 1 then s.bufByte s.refAddr else s.bufByte a := by
      rw [hwrote]
      exact bufByte_wrote hw0 _
    have hkept := (run_descends hu hrun).bytes
    have hwp : u.wp.toNat = s.wp.toNat - 1 := by rw [hwrote]; exact toNat_pred hw0
    have hoff : u.off = s.off := by rw [hwrote]; rfl
    have hrest : CopyDone n u t := ih hu (by rw [hwrote]; exact hl) (by rw [hwrote]; exact hcu) hrun
    have hopos := toNat_pos ho
    have hwpos := toNat_pos hw0
    have hle_wp := hrest.le_wp
    refine ⟨?_, by omega, fun _ => ho, fun j h1 hj => ?_⟩
    · rw [← sub_sub_sub_cancel_right s.wp s.cnt 1]
      subst hwrote
      exact hrest.regs
    · rcases Nat.eq_or_lt_of_le h1 with rfl | h1
      · rw [hkept _ (.inr hwp.le), hkept _ (.inr (by omega)), hbyte, hbyte, if_pos rfl, if_neg (by omega),
          refAddr_of_wp_ne_zero hw0]
      · have hj' := hrest.repeats (j - 1) (by omega) (by omega)
        rw [hwp, hoff] at hj'
        rwa [show s.wp.toNat - j = s.wp.toNat - 1 - (j - 1) by omega]

/-- With its source in the written output and room, a copy completes. -/
theorem copy_completes (hs : s.host = []) (hl : s.phase = .copy) (hc : s.cnt.toNat = n) (ho : s.off ≠ 0)
    (hr : n ≤ s.wp.toNat) (htop : s.wp.toNat + s.off.toNat ≤ s.wtop.toNat) (hb : s.wtop.toNat ≤ s.bufLen.toNat)
    (hv : s.verifying = false) : ∃ t, run n s = .next t ∧ t.phase = .copy := by
  induction n generalizing s with
  | zero => exact ⟨s, rfl, hl⟩
  | succ n ih =>
    obtain ⟨hc0, hcu⟩ := ne_zero_and_toNat_pred hc
    have hw0 : s.wp ≠ 0 := fun h => by simp [h] at hr
    have hwp := toNat_pred hw0
    have href := refAddr_of_wp_ne_zero hw0
    have hstep : coreStep s = .next (s.wrote (s.bufByte s.refAddr)) :=
      (coreStep_copyMove_of_refAddr_lt hl hc0 hw0 ho (by omega) (by omega)).trans
        (exec_litb_unverified _ hw0 (by omega) hv)
    rw [run_succ_of_coreStep hs hstep]
    exact ih hs hl hcu ho (show n ≤ (s.wp - 1).toNat by omega)
      (show (s.wp - 1).toNat + s.off.toNat ≤ s.wtop.toNat by omega) hb hv

/-- Where each of the `n` values below `w` equals the one `o` above it, they repeat the `o` values at `w` and above with period
`o` (spec/43 R116). -/
theorem periodic_of_repeats {α : Type} {f : Nat → α} {w o : Nat} (ho : 0 < o) (hn : n ≤ w)
    (hf : ∀ j, 1 ≤ j → j ≤ n → f (w - j) = f (w - j + o)) {j : Nat} (h1 : 1 ≤ j) (hj : j ≤ n) :
    f (w - j) = f (w - ((j - 1) % o + 1) + o) := by
  induction j using Nat.strong_induction_on with
  | h j ih =>
    rw [hf j h1 hj]
    by_cases hjo : j ≤ o
    · rw [Nat.mod_eq_of_lt (by omega), Nat.sub_add_cancel h1]
    · have hmod : (j - 1) % o = (j - o - 1) % o := by
        rw [Nat.mod_eq_sub_mod (by omega), Nat.sub_right_comm]
      rw [hmod, ← ih (j - o) (by omega) (by omega) (by omega)]
      congr 1
      omega

end Sys2Proof.Machine
end

section
/-!
SUPPORT. The core beside the same core with another `VERIFY`: only a byte that is written is compared (spec/43 R112), so a token
field is fetched and taken alike, and a counted move differs by its compare alone.
-/

namespace Sys2Proof.Machine

/-! ## The same core with another `VERIFY` -/

def State.setVerify (s : State) (b : Bool) : State := { s with verify := b }

/-- A primitive's stop, with another `VERIFY`. -/
def Stop.setVerify (b : Bool) : Stop → Stop
  | .raise c s => .raise c (s.setVerify b)
  | .halt f => .halt f

/-- What a reader of the stream answers, with another `VERIFY`. -/
def answerVerify {α : Type} (b : Bool) : Except Stop (α × State) → Except Stop (α × State) :=
  mapAnswer (Stop.setVerify b) fun t => t.setVerify b

variable {s t : State} {v : Byte} (b : Bool)

theorem setVerify_self (h : s.verify = b) : s.setVerify b = s := by subst h; rfl

/-! ## The fetch of a token field -/

theorem readByte_setVerify (s : State) : readByte (s.setVerify b) = answerVerify b (readByte s) := by
  by_cases h0 : s.rp = 0
  · rw [readByte, if_pos (by exact h0), readByte, if_pos h0]
    rfl
  · have hload : bufLoad (s.setVerify b) ((s.setVerify b).rp - 1).toNat = bufLoad s (s.rp - 1).toNat := rfl
    rw [readByte, if_neg (by exact h0), readByte, if_neg h0, hload]
    by_cases hlt : (s.rp - 1).toNat < s.bufLen.toNat
    · rw [bufLoad_of_lt hlt]
      rfl
    · rw [bufLoad, if_neg hlt]
      rfl

theorem readBit_setVerify (s : State) : readBit (s.setVerify b) = answerVerify b (readBit s) := by
  by_cases hs : s.sr = sentinel
  · rw [readBit, if_pos (by exact hs), readBit, if_pos hs, readByte_setVerify]
    rcases readByte s with e | ⟨x, t⟩ <;> rfl
  · rw [readBit, if_neg (by exact hs), readBit, if_neg hs]
    rfl

theorem withKind_setVerify (f : Field) (s : State) (e : Stop) :
    (e.setVerify b).withKind f (s.setVerify b) = (e.withKind f s).setVerify b := by
  cases e with
  | halt x => rw [withKind_halt, Stop.setVerify, withKind_halt]
  | raise c t =>
    cases f with
    | offset row => rfl
    | run row => rfl
    | type =>
      have hc := countZeros_map (readBit_setVerify b) maxZeros 0 s
      simp only [Stop.withKind, Stop.setVerify, hc]
      rcases countZeros readBit maxZeros 0 s with x | ⟨i, u⟩ <;> rfl

theorem fetchField_setVerify (s : State) : fetchField (s.setVerify b) = answerVerify b (fetchField s) := by
  have hf : (s.setVerify b).nextField = s.nextField := rfl
  rw [fetchField, fetchField, hf]
  rcases s.nextField with _ | f
  · rfl
  · simp only [decodeField_map (readBit_setVerify b) f s]
    rcases decodeField readBit f s with e | ⟨i, t⟩
    · simp only [mapAnswer, withKind_setVerify]
      rfl
    · rfl

/-! ## Steps that write nothing -/

theorem chooseOffset_setVerify {x : Tier} {w : Word} (h : chooseOffset x w s = .next t) :
    chooseOffset x w (s.setVerify b) = .next (t.setVerify b) := by
  obtain ⟨row, hr, rfl⟩ := chooseOffset_next h
  have hr' : (s.setVerify b).offRow = some row := hr
  rw [chooseOffset, hr']
  rfl

/-- A step of a token, whatever its fetch answers. -/
theorem coreStep_token_setVerify (hp : s.phase = .token) (h : coreStep s = .next t) :
    coreStep (s.setVerify b) = .next (t.setVerify b) := by
  have fetched {s : State} (hp : s.phase = .token) : fetch s = some (fetchField s) := by simp only [fetch, hp]
  have hv : fetch (s.setVerify b) = some (answerVerify b (fetchField s)) := by
    rw [fetched (s := s.setVerify b) hp, fetchField_setVerify]
  rcases hf : fetchField s with (⟨c, u⟩ | f) | ⟨i, u⟩ <;> rw [hf] at hv
  · rw [coreStep_of_fetch_raise (by rw [fetched hp, hf]), Host.Outcome.next.injEq] at h
    rw [coreStep_of_fetch_raise hv, ← h]
    rfl
  · simp [coreStep, fetched hp, hf, Stop.outcome] at h
  · rw [coreStep_of_fetched (by rw [fetched hp, hf])] at h
    rw [coreStep_of_fetched hv]
    obtain ⟨-, ⟨-, hi⟩ | ⟨-, x, w, rfl⟩ | ⟨-, x, w, rfl⟩⟩ := fetchField_ok hf
    · cases hi <;> (obtain rfl := Host.Outcome.next.inj h; rfl)
    · rw [exec_offset] at h ⊢
      exact chooseOffset_setVerify b h
    · obtain rfl := Host.Outcome.next.inj ((exec_run x w u).symm.trans h)
      exact exec_run x w (u.setVerify b)

theorem boundaryTest_setVerify (s : State) : boundaryTest (s.setVerify b) = (boundaryTest s).setVerify b := by
  by_cases h : s.wp = 0
  · rw [boundaryTest_of_wp_zero h, boundaryTest_of_wp_zero (s := s.setVerify b) h]
    rfl
  · rw [boundaryTest_of_wp_ne_zero h, boundaryTest_of_wp_ne_zero (s := s.setVerify b) h]
    rfl

/-! ## The verified step beside the step without -/

/-- How the core answers with `VERIFY` = 1 in `s`, where without it the answer is `t`: alike, but for a byte written that
differs from `EXP` (spec/43 R112, spec/60 R137, R142). -/
structure VerifiedAnswer (s t : State) (o : Host.Outcome State Fault Refusal) : Prop where
  alike : t.wp = s.wp ∨ s.expByte t.wp.toNat = t.bufByte t.wp.toNat → o = .next (t.setVerify true)
  mismatch : t.wp ≠ s.wp → s.expByte t.wp.toNat ≠ t.bufByte t.wp.toNat →
    o = .next { t with
      verify := true
      cnt := s.cnt
      phase := .fault
      faultCause := 0x21
      mmPos := t.wp
      mmData := t.bufByte t.wp.toNat ++ s.expByte t.wp.toNat }

theorem VerifiedAnswer.of_not_written {o : Host.Outcome State Fault Refusal} (hw : t.wp = s.wp)
    (h : o = .next (t.setVerify true)) : VerifiedAnswer s t o :=
  ⟨fun _ => h, fun hne => absurd hw hne⟩

theorem verify_of_verifying (h : s.verifying = true) : s.verify = true := by
  simp only [State.verifying, Bool.and_eq_true] at h
  exact h.1

/-- LITB: with `VERIFY` = 1 the same write is compared. -/
theorem exec_litb_verifiedAnswer (ha : Addressable s) (hv : s.verifying = true)
    (h : exec (.litb v) (s.setVerify false) = .next t) : VerifiedAnswer s t (exec (.litb v) s) := by
  have hself := setVerify_self true (verify_of_verifying hv)
  by_cases hw : s.wp = 0
  · rw [exec_litb_of_wp_zero (s := s.setVerify false) v hw] at h
    obtain rfl := Host.Outcome.next.inj h
    rw [exec_litb_of_wp_zero v hw]
    refine .of_not_written rfl ?_
    rw [← hself]
    rfl
  · rw [exec_litb_unverified (s := s.setVerify false) v hw ha.wp_le rfl] at h
    obtain rfl := Host.Outcome.next.inj h
    rw [exec_litb_verified v hw ha.wp_le hv (ha.expected hv), ← toNat_pred hw]
    have hne : s.wp - 1 ≠ s.wp := by
      intro heq
      have hpred := toNat_pred hw
      have hpos := toNat_pos hw
      rw [heq] at hpred
      omega
    have hbyte : ((s.setVerify false).wrote v).bufByte ((s.setVerify false).wrote v).wp.toNat = v :=
      (bufByte_putByte (s.setVerify false) (s.wp - 1) v _).trans (if_pos rfl)
    refine ⟨fun hagree => ?_, fun _ hb => ?_⟩
    · rw [hbyte] at hagree
      have he : s.expByte (s.wp - 1).toNat = v := hagree.resolve_left hne
      rw [if_pos he, ← hself]
      rfl
    · rw [hbyte] at hb ⊢
      have he : s.expByte (s.wp - 1).toNat ≠ v := hb
      rw [if_neg he, State.disagreed, ← toNat_pred hw, ← hself]
      rfl

/-- A copy step: its checks do not see `VERIFY`, and past them it is LITB. -/
theorem coreStep_copyMove_verifiedAnswer (ha : Addressable s) (hv : s.verifying = true) (hp : s.phase = .copy)
    (hc : s.cnt ≠ 0) (h : coreStep (s.setVerify false) = .next t) : VerifiedAnswer s t (coreStep s) := by
  have hself := setVerify_self true (verify_of_verifying hv)
  have raised (c : Cause) (hs : ∀ b, backrefStep (s.setVerify b) = .error (.raise c (s.setVerify b))) :
      VerifiedAnswer s t (coreStep s) := by
    rw [coreStep_copyMove (s := s.setVerify false) hp hc, hs] at h
    obtain rfl := Host.Outcome.next.inj h
    refine .of_not_written rfl ?_
    rw [coreStep_copyMove hp hc, ← hself, hs]
    rfl
  by_cases hw : s.wp = 0
  · exact raised _ fun b => backrefStep_of_wp_zero hw
  by_cases ho : s.off = 0
  · exact raised _ fun b => backrefStep_of_off_zero hw ho
  by_cases hr : s.wtop.toNat ≤ s.refAddr
  · exact raised _ fun b => backrefStep_of_wtop_le hw ho hr
  · have hr' : s.refAddr < s.wtop.toNat := by omega
    have hb := hr'.trans_le ha.wtop_le
    rw [coreStep_copyMove_of_refAddr_lt (s := s.setVerify false) hp hc hw ho hr' hb] at h
    rw [coreStep_copyMove_of_refAddr_lt hp hc hw ho hr' hb]
    exact exec_litb_verifiedAnswer ha hv h

/-- A step of a literal run: its end and its fetch do not see `VERIFY`, and its move is LITB. -/
theorem coreStep_literalRun_verifiedAnswer (ha : Addressable s) (hv : s.verifying = true) (hl : s.inLiteralRun)
    (h : coreStep (s.setVerify false) = .next t) : VerifiedAnswer s t (coreStep s) := by
  have hself := setVerify_self true (verify_of_verifying hv)
  by_cases hc : s.cnt = 0
  · rw [coreStep_boundary (s := s.setVerify false) hl hc, boundaryTest_setVerify] at h
    obtain rfl := Host.Outcome.next.inj h
    refine .of_not_written ?_ ?_
    · rw [boundaryTest]
      split <;> rfl
    · rw [coreStep_boundary hl hc, ← hself, boundaryTest_setVerify]
      rfl
  by_cases h0 : s.rp = 0
  · rw [coreStep_literalStarved (s := s.setVerify false) hl hc h0] at h
    obtain rfl := Host.Outcome.next.inj h
    refine .of_not_written rfl ?_
    rw [coreStep_literalStarved hl hc h0, ← hself]
    rfl
  · rw [coreStep_literalMove (s := s.setVerify false) hl hc h0 ha.rp_le] at h
    rw [coreStep_literalMove hl hc h0 ha.rp_le]
    have hu := ha.of_cursorMoved (readByte_moves (readByte_of h0 ha.rp_le))
    obtain ⟨halike, hmismatch⟩ := exec_litb_verifiedAnswer hu hv h
    exact ⟨halike, hmismatch⟩

/-- A step of a token writes nothing. -/
theorem CoreMove.wp_of_token (h : CoreMove s t) (hp : s.phase = .token) : t.wp = s.wp := by
  cases h with
  | fieldStarved _ u hm _ _ _ ht | type _ _ u hm _ _ _ _ ht | offset _ _ u hm _ ht | run _ _ u hm _ ht =>
    obtain ⟨a, b, rfl, -⟩ := hm.eq_setCursor
    exact ht ▸ rfl
  | rest h | boundary h | literalStarved h | literal h | copyEnd h | copy h =>
    simp [State.busy, Phase.busy, State.inLiteralRun, hp] at h

/-- Every row of the phase table. -/
theorem coreStep_verifiedAnswer (hi : Inv s) (hv : s.verifying = true) (h : coreStep (s.setVerify false) = .next t) :
    VerifiedAnswer s t (coreStep s) := by
  have hself := setVerify_self true (verify_of_verifying hv)
  rcases hb : s.busy with _ | _
  · rw [coreStep_of_not_busy (s := s.setVerify false) hb] at h
    obtain rfl := Host.Outcome.next.inj h
    exact .of_not_written rfl ((coreStep_of_not_busy hb).trans (congrArg Host.Outcome.next hself.symm))
  have ha := hi.addressable hb
  cases hp : s.phase with
  | prefixRun => exact coreStep_literalRun_verifiedAnswer ha hv (.inl hp) h
  | literal => exact coreStep_literalRun_verifiedAnswer ha hv (.inr hp) h
  | token =>
    refine .of_not_written ((coreStep_next h).wp_of_token hp) ?_
    have hs := coreStep_token_setVerify (s := s.setVerify false) true hp h
    rwa [show (s.setVerify false).setVerify true = s from hself] at hs
  | copy =>
    by_cases hc : s.cnt = 0
    · rw [coreStep_copyEnd (s := s.setVerify false) hp hc] at h
      obtain rfl := Host.Outcome.next.inj h
      refine .of_not_written rfl ?_
      rw [coreStep_copyEnd hp hc, ← hself]
      rfl
    · exact coreStep_copyMove_verifiedAnswer ha hv hp hc h
  | idle | done | fault => simp [State.busy, Phase.busy, hp] at hb

end Sys2Proof.Machine
end

section
/-! The statements settled: O32, O29, O33, O34, O58, O23, O24, O25, O26, O27, O30, O31. -/

open Sys2Proof.Machine

namespace Sys2Proof.Proofs

/-- Settles O32: each byte written equals the byte `OFF` above it (`copyDone_of_run`), which is the period
(`periodic_of_repeats`); the bytes at `WP` and above, and those below the new `WP`, stay. -/
theorem copyRepeatsWithPeriodOffset : Obligations.CopyRepeatsWithPeriodOffset := by
  intro n s hs hl hc
  refine ⟨fun ho hr htop hb hv => copy_completes hs hl hc ho hr htop hb hv, fun t h hp => ?_⟩
  have hdone : CopyDone n s t := copyDone_of_run hs hl hc h (by simp [hp])
  have hkept := (run_descends hs h).bytes
  have hle := hdone.le_wp
  have hwp := hdone.toNat_wp hc
  refine ⟨hdone.regs, hle, fun j h1 hj => ?_, fun a ha => hkept a (by omega)⟩
  have ho := toNat_pos (hdone.off_ne (by omega))
  have hmod := Nat.mod_lt (j - 1) ho
  rw [periodic_of_repeats ho hle hdone.repeats h1 hj]
  exact hkept _ (.inr (by omega))

/-- Settles O29: the bytes and registers by `literalRunDone_of_run`, the bytes outside the run by the frame of the core. -/
theorem literalRunLaw : Obligations.LiteralRunLaw := by
  intro n s hs hl hc hle
  refine ⟨fun hr hb hv => literalRun_completes hs hl hc hr hle hb hv, fun t h hp => ?_⟩
  have hnf : t.phase ≠ .fault := by rcases hl with hl | hl <;> simp [hp, hl]
  have hdone : LiteralRunDone n s t := literalRunDone_of_run hs hl hc h hnf
  have hwp := hdone.toNat_wp hc
  refine ⟨hdone.regs, hdone.le_rp, fun a => ?_⟩
  split
  · have hbyte := hdone.bytes hle (s.wp.toNat - a) (by omega) (by omega)
    rwa [show s.wp.toNat - (s.wp.toNat - a) = a by omega] at hbyte
  · exact (run_descends hs h).bytes a (by omega)

/-- Settles O33: O32 at offset 1, where the period is one byte. -/
theorem offsetOneRepeatsOneByte : Obligations.OffsetOneRepeatsOneByte := by
  intro n s t hs hl hc ho h hp
  obtain ⟨hregs, hle, hbytes, -⟩ := (copyRepeatsWithPeriodOffset n s hs hl hc).2 t h hp
  have ho' : s.off.toNat = 1 := by rw [ho]; rfl
  refine ⟨(congrArg (fun t : State => t.wp.toNat) hregs).trans (toNat_sub_of_toNat_eq hc hle), fun j h1 hj => ?_⟩
  rw [hbytes j h1 hj, ho', Nat.mod_one, show s.wp.toNat - (0 + 1) + 1 = s.wp.toNat by omega]

/-- Settles O34: a step that completed has `OFF` ≠ 0 and its source below `WTOP`, and the next source is one lower, so the next
step faults for want of room or on a mismatch. -/
theorem rangeFaultsOnlyAtFirstCopyStep : Obligations.RangeFaultsOnlyAtFirstCopyStep := by
  intro s t u hs hl hc h htl htc hu huf
  rw [step_of_host_nil hs] at h
  have hts : t.host = [] := (coreStep_descends h).host.trans hs
  obtain ⟨hw, ho, htop, hlen, hwrote⟩ := coreStep_copyMove_completed hl hc h (by simp [htl])
  rw [step_of_host_nil hts] at hu
  have hcause : u.faultCause = Cause.writeUnderflow.code ∨ u.faultCause = Cause.integrityMismatch.code := by
    by_cases htw : t.wp = 0
    · rw [coreStep_copyMove htl htc, backrefStep_of_wp_zero htw] at hu
      exact .inl (Host.Outcome.next.inj hu ▸ rfl)
    · have hwtop : t.wtop = s.wtop := by rw [hwrote]; rfl
      have hbufLen : t.bufLen = s.bufLen := by rw [hwrote]; rfl
      have hlt : t.refAddr < s.refAddr := by
        have hoff : t.off = s.off := by rw [hwrote]; rfl
        have hwp : t.wp.toNat = s.wp.toNat - 1 := by rw [hwrote]; exact toNat_pred hw
        have hpos := toNat_pos htw
        rw [refAddr_of_wp_ne_zero htw, refAddr_of_wp_ne_zero hw, hoff]
        omega
      rw [coreStep_copyMove_of_refAddr_lt htl htc htw (by rw [hwrote]; exact ho) (hwtop ▸ hlt.trans htop)
        (hbufLen ▸ hlt.trans hlen)] at hu
      rcases exec_litb_next hu with rfl | ⟨-, rfl⟩ | rfl
      · exact .inl rfl
      · exact absurd (htl.symm.trans huf) (by decide)
      · exact .inr rfl
  rcases hcause with hcause | hcause <;> rw [hcause] <;> exact ⟨by decide, by decide⟩

/-- Settles O58, row by row of the phase table: a row that writes nothing does not see `VERIFY`, and one that writes is LITB,
whose compare the invariant keeps within `EXP`. -/
theorem verificationDoesNotAlterTheDecode : Obligations.VerificationDoesNotAlterTheDecode := by
  intro s t hi hs hhas hver h
  have hv : s.verifying = true := by rw [State.verifying, hver, hhas]; rfl
  have hcore : coreStep (s.setVerify false) = .next t := (step_of_host_nil (s := s.setVerify false) hs).symm.trans h
  rw [step_of_host_nil hs]
  obtain ⟨halike, hmismatch⟩ := coreStep_verifiedAnswer hi hv hcore
  exact ⟨halike, hmismatch⟩

/-- Settles O23. -/
theorem literalWritesOneByte : Obligations.LiteralWritesOneByte :=
  fun _ b hw hle hv => ⟨_, exec_litb_unverified b hw hle hv, rfl, bufByte_wrote hw b⟩

/-- Settles O24, by the two answers of the compare. -/
theorem literalIsVerified : Obligations.LiteralIsVerified := by
  intro s b hw hle hv he
  refine ⟨_, exec_litb_verified b hw hle hv he, fun a => ?_, fun hb => ?_, fun hb => ?_⟩
  · split
    · exact bufByte_wrote hw b a
    · exact bufByte_disagreed hw b a
  · rw [if_pos hb]; rfl
  · rw [if_neg hb]; rfl

/-- Settles O25: the move is LITB of the byte below `RP`. -/
theorem literalMoveCopiesStreamByte : Obligations.LiteralMoveCopiesStreamByte := by
  intro s hs hl hc h0 hr hw hle hv
  refine ⟨(s.setCursor (s.rp - 1) s.sr).wrote (s.bufByte (s.rp.toNat - 1)), ?_, rfl, ?_⟩
  · rw [step_of_host_nil hs, coreStep_literalMove hl hc h0 hr]
    exact exec_litb_unverified _ hw hle hv
  · exact bufByte_wrote (s := s.setCursor (s.rp - 1) s.sr) hw _

/-- Settles O26: the fetch finds no byte, or LITB no room. -/
theorem literalMoveFaults : Obligations.LiteralMoveFaults := by
  intro s hs hl hc
  rw [step_of_host_nil hs]
  refine ⟨coreStep_literalStarved hl hc, fun h0 hr hw => ?_⟩
  rw [coreStep_literalMove hl hc h0 hr]
  exact exec_litb_of_wp_zero _ hw

/-- Settles O27. -/
theorem literalWithoutRoomFaults : Obligations.LiteralWithoutRoomFaults := fun _ b hw => exec_litb_of_wp_zero b hw

/-- Settles O30, check by check; past the checks the step is LITB of its source byte. -/
theorem backrefStepRule : Obligations.BackrefStepRule := by
  intro s hs hl hc
  rw [step_of_host_nil hs]
  refine ⟨fun hw => ?_, fun hw ho => ?_, fun hw ho hr => ?_, fun hw ho hr hb hv => ?_⟩
  · rw [coreStep_copyMove hl hc, backrefStep_of_wp_zero hw]
    rfl
  · rw [coreStep_copyMove hl hc, backrefStep_of_off_zero hw ho]
    rfl
  · rw [coreStep_copyMove hl hc, backrefStep_of_wtop_le hw ho (refAddr_of_wp_ne_zero hw ▸ hr)]
    rfl
  · rw [← refAddr_of_wp_ne_zero hw] at hr ⊢
    have hle : s.wp.toNat ≤ s.bufLen.toNat := by rw [refAddr_of_wp_ne_zero hw] at hr; omega
    rw [coreStep_copyMove_of_refAddr_lt hl hc hw ho hr (hr.trans_le hb), exec_litb_unverified _ hw hle hv]
    exact ⟨_, rfl, rfl, bufByte_wrote hw _⟩

/-- Settles O31: past its checks the step is LITB of its source byte, whose two answers are O24. -/
theorem backrefStepIsVerified : Obligations.BackrefStepIsVerified := by
  intro s hs hl hc hw ho hr hb hv he
  have hle : s.wp.toNat ≤ s.bufLen.toNat := by
    have hopos := toNat_pos ho
    omega
  have href := refAddr_of_wp_ne_zero hw
  rw [step_of_host_nil hs, coreStep_copyMove_of_refAddr_lt hl hc hw ho (href ▸ hr) (by omega), href]
  exact literalIsVerified s _ hw hle hv he

end Sys2Proof.Proofs
end

/-! # The host interface (spec/44): the register window, `BUF` and `EXP`, the container, and the boot sequence -/

section
/-!
SUPPORT. One step that takes a host move: a register write, by BUSY and by the register; a register read; a byte access to
`BUF` or `EXP`; and a START that breaks a duty of the host.
-/

namespace Sys2Proof.Machine

variable {s s' : State} {offset : BitVec 6} {r : Reg} {v : Word} {f : Fault} {rest : List HostMove}

/-! ## START as a register write (spec/44 R121) -/

/-- The aligned word at offset 0 is `CTRL`, so the move is a START exactly when the word is one. -/
theorem startOf_ctrlWrite (v : Word) : startOf (.regWrite 0 32 v) = decodeCtrl v := rfl

/-- A write of any other register is no START. -/
theorem startOf_regWrite_of_ne_ctrl (h : regAt offset ≠ .ctrl) : startOf (.regWrite offset 32 v) = none := by
  simp [startOf, h]

/-- The only instruction a host move holds is START. -/
theorem startOf_eq_some {m : HostMove} {i : Instr} (h : startOf m = some i) : ∃ v q, i = .start v q := by
  cases m with
  | regWrite offset width v =>
    simp only [startOf, decodeCtrl, Option.ite_none_right_eq_some, Option.some.injEq] at h
    exact ⟨_, _, h.2.2.symm⟩
  | _ => cases h

/-- START is ignored while BUSY (spec/44 R121). -/
theorem exec_start_of_busy (hb : s.busy = true) (v q : Bool) : exec (.start v q) s = .next s := if_pos hb

/-! ## Register writes (spec/44 R120) -/

/-- While BUSY a register write is ignored, whether it holds a START or not. -/
theorem step_regWrite_of_busy (hb : s.busy = true) (hal : offset.toNat % 4 = 0) :
    step { s with host := .regWrite offset 32 v :: rest } = .next { s with host := rest } := by
  have hb' : { s with host := rest }.busy = true := hb
  change hostStep (.regWrite offset 32 v) { s with host := rest } = _
  cases hst : startOf (.regWrite offset 32 v) with
  | some i =>
    obtain ⟨ve, q, rfl⟩ := startOf_eq_some hst
    simp only [hostStep, hst, exec_start_of_busy hb']
  | none => simp only [hostStep, hst, hostAct, regAccessOk_of_aligned hal, hb', if_true]

/-- While not BUSY a register write that is no START is one `writeReg`. -/
theorem step_regWrite_of_not_busy (hb : s.busy = false) (hal : offset.toNat % 4 = 0)
    (hst : startOf (.regWrite offset 32 v) = none) :
    step { s with host := .regWrite offset 32 v :: rest } = .next (writeReg (regAt offset) v { s with host := rest }) := by
  have hb' : { s with host := rest }.busy = false := hb
  change hostStep (.regWrite offset 32 v) { s with host := rest } = _
  simp [hostStep, hst, hostAct, regAccessOk_of_aligned hal, hb']

/-- The read-only registers, and offsets with no register, ignore writes (spec/10 R29, R30, R37 to R39). -/
theorem writeReg_readOnly (h : r ∈ [Reg.status, .faultCause, .mmPos, .mmData, .none]) (v : Word) (s : State) :
    writeReg r v s = s := by
  simp only [List.mem_cons, List.not_mem_nil, or_false] at h
  rcases h with rfl | rfl | rfl | rfl | rfl <;> rfl

/-- Where the window has no writable register (spec/10 R27). -/
theorem regAt_readOnly (h : offset ∈ [(0x04 : BitVec 6), 0x08, 0x24, 0x28, 0x2C, 0x30, 0x34, 0x38, 0x3C]) :
    offset.toNat % 4 = 0 ∧ regAt offset ∈ [Reg.status, .faultCause, .mmPos, .mmData, .none] := by
  revert offset
  decide

theorem step_regWrite_readOnly (hb : s.busy = false)
    (h : offset ∈ [(0x04 : BitVec 6), 0x08, 0x24, 0x28, 0x2C, 0x30, 0x34, 0x38, 0x3C]) :
    step { s with host := .regWrite offset 32 v :: rest } = .next { s with host := rest } := by
  obtain ⟨hal, hr⟩ := regAt_readOnly h
  have hne : regAt offset ≠ .ctrl := fun hc => by simp [hc] at hr
  rw [step_regWrite_of_not_busy hb hal (startOf_regWrite_of_ne_ctrl hne), writeReg_readOnly hr]

/-! ## Register reads (spec/44 R119) -/

/-- While not BUSY a register read returns `regValue`. -/
theorem readReg_of_not_busy (hb : s.busy = false) (r : Reg) : readReg r s = { s with hostData := s.regValue r } := by
  simp [readReg, hb]

theorem step_regRead_of_not_busy (hb : s.busy = false) (hal : offset.toNat % 4 = 0) :
    step { s with host := .regRead offset 32 :: rest } =
      .next { s with host := rest, hostData := s.regValue (regAt offset) } := by
  rw [step_regRead hal, readReg_of_not_busy (s := { s with host := rest }) hb]
  rfl

/-- `STATUS` while not BUSY: IDLE, DONE or FAULT (spec/10 R29). -/
theorem stateCode_of_not_busy (hb : s.busy = false) :
    s.phase.stateCode = if s.phase = .idle then 0 else if s.phase = .done then 2 else 3 := by
  cases hp : s.phase with
  | idle | done | fault => rfl
  | prefixRun | token | copy | literal => simp [State.busy, Phase.busy, hp] at hb

/-! ## Byte accesses to `BUF` and `EXP` (spec/44 R129) -/

theorem bufferAccess_of_busy (hb : s.busy = true) (present : Bool) :
    bufferAccess s present f s' = .refused .bufferWhileBusy := if_pos hb

theorem bufferAccess_of_present {present : Bool} (hb : s.busy = false) (hp : present = true) :
    bufferAccess s present f s' = .next s' := by
  simp [bufferAccess, hb, hp]

theorem bufferAccess_of_absent {present : Bool} (hb : s.busy = false) (hp : present = false) :
    bufferAccess s present f s' = .fault f := by
  simp [bufferAccess, hb, hp]

/-- Which bytes of `EXP` exist (spec/20 R45). -/
theorem expHas_eq_true_iff {a : Word} :
    s.expHas a = true ↔ s.params.hasVerify = true ∧ a.toNat < s.expLen.toNat := by
  simp [State.expHas, BitVec.lt_def]

theorem expHas_eq_false_iff {a : Word} :
    s.expHas a = false ↔ s.params.hasVerify = false ∨ s.expLen.toNat ≤ a.toNat := by
  rw [← Bool.not_eq_true, expHas_eq_true_iff, not_and_or, Bool.not_eq_true, not_lt]

/-- One byte written into `BUF` (spec/20 R44). -/
theorem bufByte_store (s : State) (a : Nat) (b : Byte) (k : Nat) :
    { s with buf := s.buf.store a b }.bufByte k = if k = a then b else s.bufByte k := by
  by_cases h : k = a <;> simp [State.bufByte, h]

/-- One byte written into `EXP` (spec/20 R45). -/
theorem expByte_store (s : State) (a : Nat) (b : Byte) (k : Nat) :
    { s with exp := s.exp.store a b }.expByte k = if k = a then b else s.expByte k := by
  by_cases h : k = a <;> simp [State.expByte, h]

/-! The four byte accesses at a byte that exists, and the supply of an `EXP`. -/

theorem step_bufRead {a : Word} (hb : s.busy = false) (ha : a.toNat < s.params.maxBuf.toNat) :
    step { s with host := .bufRead a :: rest } =
      .next { s with host := rest, hostData := BitVec.ofNat 32 (s.bufByte a.toNat).toNat } := by
  rw [BitVec.ofNat_toNat]
  exact bufferAccess_of_present hb (decide_eq_true ha)

theorem step_bufWrite {a : Word} (hb : s.busy = false) (ha : a.toNat < s.params.maxBuf.toNat) (b : Byte) :
    step { s with host := .bufWrite a b :: rest } = .next { s with host := rest, buf := s.buf.store a.toNat b } :=
  bufferAccess_of_present hb (decide_eq_true ha)

theorem step_expRead {a : Word} (hb : s.busy = false) (hv : s.params.hasVerify = true)
    (ha : a.toNat < s.expLen.toNat) :
    step { s with host := .expRead a :: rest } =
      .next { s with host := rest, hostData := BitVec.ofNat 32 (s.expByte a.toNat).toNat } := by
  rw [BitVec.ofNat_toNat]
  exact bufferAccess_of_present hb (expHas_eq_true_iff.mpr ⟨hv, ha⟩)

theorem step_expWrite {a : Word} (hb : s.busy = false) (hv : s.params.hasVerify = true)
    (ha : a.toNat < s.expLen.toNat) (b : Byte) :
    step { s with host := .expWrite a b :: rest } = .next { s with host := rest, exp := s.exp.store a.toNat b } :=
  bufferAccess_of_present hb (expHas_eq_true_iff.mpr ⟨hv, ha⟩)

theorem step_expSupply (hb : s.busy = false) (hv : s.params.hasVerify = true) (n : Word) :
    step { s with host := .expSupply n :: rest } = .next { s with host := rest, expLen := n } :=
  bufferAccess_of_present hb hv

/-! ## Broken duties of the host (spec/93 U7, U8) -/

theorem beginDecode_bufLenOverMax (hm : s.pmode.toNat ≤ 8) (hp : s.positionBad = false)
    (hmax : s.params.maxBuf.toNat < s.bufLen.toNat) : beginDecode s = .refused .bufLenOverMax := by
  rw [beginDecode, if_neg hm.not_gt, if_neg (by simp [hp]), if_pos (BitVec.lt_def.mpr hmax)]

theorem beginDecode_expShort (hm : s.pmode.toNat ≤ 8) (hp : s.positionBad = false)
    (hmax : s.bufLen.toNat ≤ s.params.maxBuf.toNat) (hv : s.verifying = true) (he : s.expLen.toNat < s.wp.toNat) :
    beginDecode s = .refused .expShort := by
  have hshort : (decide (s.expLen < s.wp) && s.verifying) = true := by
    rw [hv, Bool.and_true, decide_eq_true_eq]
    exact he
  rw [beginDecode, if_neg hm.not_gt, if_neg (by simp [hp]), if_neg (BitVec.not_lt.mpr hmax), if_pos hshort]

end Sys2Proof.Machine
end

section
/-! The statements settled: O16, O39, O40, O41, O42, O45. -/

open Sys2Proof.Machine

namespace Sys2Proof.Proofs

/-- Settles O16: the word at offset 0 is decoded by `decodeCtrl`, whose test is bit 0. -/
theorem ctrlWriteWithBitZeroIsStart : Obligations.CtrlWriteWithBitZeroIsStart := startOf_ctrlWrite

/-- Settles O39: START's own checks pass, and the first broken duty names the refusal. -/
theorem startRefusesBrokenHostDuty : Obligations.StartRefusesBrokenHostDuty := by
  intro s v q hb hm hrp hwp
  let armed := (s.setCtrl v q).armed
  have hm' : armed.pmode.toNat ≤ 8 := hm
  have hp : armed.positionBad = false := positionBad_of_le hrp hwp
  rw [exec_start_of_not_busy hb]
  refine ⟨beginDecode_bufLenOverMax hm' hp, fun hmax hv hver he => beginDecode_expShort hm' hp hmax ?_ he⟩
  rw [verifying_setCtrl_armed, hv, hver]
  rfl

/-- Settles O40: BUSY is asked before the register is looked at, and START asks it too. -/
theorem registerWritesIgnoredWhileBusy : Obligations.RegisterWritesIgnoredWhileBusy := by
  intro s offset v rest hb hal hs
  have hsame : s = { s with host := .regWrite offset 32 v :: rest } := by rw [← hs]
  rw [hsame]
  exact step_regWrite_of_busy hb hal

/-- Settles O41: each write is one `writeReg` (`step_regWrite_of_not_busy`), register by register; PMODE and SREG keep the low
byte. -/
theorem registerWritesSetTheirFields : Obligations.RegisterWritesSetTheirFields := by
  intro s v rest hb after s'
  have write {offset : BitVec 6} (hal : offset.toNat % 4 = 0) (hne : regAt offset ≠ .ctrl) :
      after offset = .next (writeReg (regAt offset) v s') :=
    step_regWrite_of_not_busy hb hal (startOf_regWrite_of_ne_ctrl hne)
  have low_byte : v.extractLsb' 0 8 = v.setWidth 8 := (BitVec.setWidth_eq_extractLsb' (by decide)).symm
  rw [low_byte]
  refine ⟨fun h0 => ?_, write rfl (by decide), write rfl (by decide), write rfl (by decide), write rfl (by decide),
    write rfl (by decide), write rfl (by decide), fun _ hro => step_regWrite_readOnly hb hro⟩
  have hst : startOf (.regWrite 0 32 v) = none := (startOf_ctrlWrite v).trans (if_neg (ne_true_of_eq_false h0))
  exact step_regWrite_of_not_busy hb rfl hst

/-- Settles O42: each read returns `regValue` (`step_regRead_of_not_busy`), register by register; the narrow registers are
zero-extended. -/
theorem registerReadsReturnTheirValues : Obligations.RegisterReadsReturnTheirValues := by
  intro s rest hb after gives
  have read {offset : BitVec 6} {v : Word} (hal : offset.toNat % 4 = 0) (hv : s.regValue (regAt offset) = v) :
      after offset = gives v := hv ▸ step_regRead_of_not_busy hb hal
  refine ⟨read rfl (ctrl_eq_ofNat s), read rfl (stateCode_of_not_busy hb), read rfl (BitVec.ofNat_toNat 32 _).symm,
    read rfl rfl, read rfl rfl, read rfl rfl, read rfl rfl, read rfl (BitVec.ofNat_toNat 32 _).symm,
    read rfl (BitVec.ofNat_toNat 32 _).symm, read rfl rfl, read rfl (BitVec.ofNat_toNat 32 _).symm, fun offset h => ?_⟩
  have hal : offset.toNat % 4 = 0 := (regAt_readOnly (List.mem_append_right [0x04, 0x08, 0x24, 0x28] h)).1
  exact read hal (by rw [regAt_unmapped h]; rfl)

/-- Settles O45: every access is one `bufferAccess`, which asks BUSY first and then whether the byte exists. -/
theorem hostBufferAccesses : Obligations.HostBufferAccesses := by
  intro s a n v rest after
  refine ⟨fun hb m hm => ?_, fun hb => ⟨fun ha => ?_, fun ha => ?_, fun hv ha => ?_, fun ha => ?_, fun hv => ?_,
    fun hv => ?_⟩⟩
  · simp only [List.mem_cons, List.not_mem_nil, or_false] at hm
    rcases hm with rfl | rfl | rfl | rfl | rfl <;> exact bufferAccess_of_busy hb _
  · exact ⟨step_bufRead hb ha, _, step_bufWrite hb ha v, rfl, bufByte_store s a.toNat v⟩
  · have habsent : decide (a < s.params.maxBuf) = false := decide_eq_false ha.not_gt
    exact ⟨bufferAccess_of_absent hb habsent, bufferAccess_of_absent hb habsent⟩
  · exact ⟨step_expRead hb hv ha, _, step_expWrite hb hv ha v, rfl, expByte_store s a.toNat v⟩
  · have habsent : s.expHas a = false := expHas_eq_false_iff.mpr ha
    exact ⟨bufferAccess_of_absent hb habsent, bufferAccess_of_absent hb habsent⟩
  · exact step_expSupply hb hv n
  · exact bufferAccess_of_absent hb hv

end Sys2Proof.Proofs
end

section
/-! SUPPORT. The preparation of a container (spec/44 R122 to R126, R130): relocation, growth, and which files are accepted. -/

namespace Sys2Proof.Machine

variable {p : Params} {f b : List Byte} {h : Header} {packed full : Nat}

/-! ## Relocation and growth -/

/-- Byte `k` after relocation: below the moved header and from `packed` on it is the file's own, between them a header byte
(spec/44 R125). -/
theorem getElem?_relocate (hp : packed ≤ f.length) (k : Nat) :
    (relocate packed f)[k]? =
      if k < packed - min packed 18 ∨ packed ≤ k then f[k]? else f[k - (packed - min packed 18)]? := by
  have hbelow : (f.take (packed - min packed 18)).length = packed - min packed 18 := List.length_take_of_le (by omega)
  have hheader : (f.take (min packed 18)).length = min packed 18 := List.length_take_of_le (by omega)
  rw [relocate, headerLen, List.append_assoc]
  rcases lt_or_ge k (packed - min packed 18) with hk | hk
  · rw [List.getElem?_append_left (by omega), List.getElem?_take_of_lt hk, if_pos (.inl hk)]
  · rw [List.getElem?_append_right (by omega), hbelow]
    rcases lt_or_ge k packed with hk' | hk'
    · rw [List.getElem?_append_left (by omega), List.getElem?_take_of_lt (by omega), if_neg (by omega)]
    · rw [List.getElem?_append_right (by omega), hheader, List.getElem?_drop, if_pos (.inr hk')]
      congr 1
      omega

theorem length_relocate (hp : packed ≤ f.length) : (relocate packed f).length = f.length := by
  simp only [relocate, headerLen, List.length_append, List.length_take, List.length_drop]
  omega

/-- A payload of at most 18 bytes is copied onto itself. -/
theorem relocate_of_le_headerLen (hp : packed ≤ f.length) (h18 : packed ≤ 18) : relocate packed f = f := by
  apply List.ext_getElem?
  intro k
  have hzero : packed - min packed 18 = 0 := by omega
  rw [getElem?_relocate hp, hzero, Nat.sub_zero, ite_self]

/-- Growth appends zeros up to `full` (spec/44 R126). -/
theorem getElem?_grow_of_lt {k : Nat} (hk : k < b.length) : (grow full b)[k]? = b[k]? := List.getElem?_append_left hk

theorem getElem?_grow_of_ge {k : Nat} (hk : b.length ≤ k) (hf : k < full) : (grow full b)[k]? = some 0 := by
  rw [grow, List.getElem?_append_right hk, List.getElem?_replicate_of_lt (by omega)]

theorem length_grow (hb : b.length ≤ full) : (grow full b).length = full := by
  rw [grow, List.length_append, List.length_replicate]
  omega

/-! ## Which files are accepted (spec/44 R122, R130) -/

theorem recognised_iff : recognised p f = true ↔ 18 ≤ f.length ∧ (parseHeader f).magic = p.magic := by
  rw [recognised, headerLen, Bool.and_eq_true, decide_eq_true_eq, beq_iff_eq]

theorem recognised_eq_false_iff : recognised p f = false ↔ f.length < 18 ∨ (parseHeader f).magic ≠ p.magic := by
  rw [← Bool.not_eq_true, recognised_iff, not_and_or, not_le]

/-- The lengths of a file that have no meaning (spec/44 R130). -/
theorem hostRefuses_iff : hostRefuses p f = true ↔
    f.length < (parseHeader f).packedLength.toNat ∨ (parseHeader f).fullLength.toNat < f.length ∨
      p.maxBuf.toNat < (parseHeader f).fullLength.toNat := by
  simp [hostRefuses, BitVec.lt_def, or_assoc]

theorem hostRefuses_eq_false_iff : hostRefuses p f = false ↔
    (parseHeader f).packedLength.toNat ≤ f.length ∧ f.length ≤ (parseHeader f).fullLength.toNat ∧
      (parseHeader f).fullLength.toNat ≤ p.maxBuf.toNat := by
  rw [← Bool.not_eq_true, hostRefuses_iff]
  simp only [not_or, not_lt]

/-! ## What the host prepares -/

/-- The content of `BUF` prepared from a file. -/
def preparedBuffer (f : List Byte) : List Byte :=
  grow (parseHeader f).fullLength.toNat (relocate (parseHeader f).packedLength.toNat f)

theorem prepare_of_not_recognised (hr : recognised p f = false) : prepare p f = .error .notRecognized := by
  simp [prepare, hr]

theorem prepare_of_refused (hr : recognised p f = true) (hx : hostRefuses p f = true) :
    prepare p f = .error .malformedStream := by
  simp [prepare, hr, hx]

theorem prepare_of_accepted (hr : recognised p f = true) (hx : hostRefuses p f = false) :
    prepare p f = .ok (parseHeader f, preparedBuffer f) := by
  simp [prepare, hr, hx, preparedBuffer]

/-- A prepared file was accepted. -/
theorem prepare_eq_ok (hp : prepare p f = .ok (h, b)) :
    hostRefuses p f = false ∧ h = parseHeader f ∧ b = preparedBuffer f := by
  cases hr : recognised p f with
  | false => simp [prepare_of_not_recognised hr] at hp
  | true =>
    cases hx : hostRefuses p f with
    | true => simp [prepare_of_refused hr hx] at hp
    | false =>
      rw [prepare_of_accepted hr hx, Except.ok.injEq, Prod.mk.injEq] at hp
      exact ⟨rfl, hp.1.symm, hp.2.symm⟩

theorem length_preparedBuffer (hpacked : (parseHeader f).packedLength.toNat ≤ f.length)
    (hfull : f.length ≤ (parseHeader f).fullLength.toNat) :
    (preparedBuffer f).length = (parseHeader f).fullLength.toNat :=
  length_grow ((length_relocate hpacked).trans_le hfull)

/-- What the preparation establishes for START: the buffer and both positions inside it (spec/44 R127). -/
theorem prepare_lengths (hp : prepare p f = .ok (h, b)) :
    b.length = h.fullLength.toNat ∧ h.packedLength.toNat ≤ h.fullLength.toNat ∧
      h.fullLength.toNat ≤ p.maxBuf.toNat := by
  obtain ⟨hx, rfl, rfl⟩ := prepare_eq_ok hp
  obtain ⟨hpacked, hfull, hmax⟩ := hostRefuses_eq_false_iff.mp hx
  exact ⟨length_preparedBuffer hpacked hfull, hpacked.trans hfull, hmax⟩

end Sys2Proof.Machine
end

section
/-! The statement settled: O59. -/

open Sys2Proof.Machine

namespace Sys2Proof.Proofs

/-- Settles O59: relocation byte by byte (`getElem?_relocate`), and growth after it. -/
theorem relocationMovesTheHeaderBytes : Obligations.RelocationMovesTheHeaderBytes := by
  refine ⟨fun f packed hp => ⟨length_relocate hp, fun k hk => ?_, fun k hk => ?_, relocate_of_le_headerLen hp⟩, ?_⟩
  · rw [getElem?_relocate hp, if_neg (by omega), Nat.add_sub_cancel_left]
  · rw [getElem?_relocate hp, if_pos hk]
  · intro p f h hlen hmagic hpacked hfull hmax
    have haccepted := prepare_of_accepted (recognised_iff.mpr ⟨hlen, hmagic⟩)
      (hostRefuses_eq_false_iff.mpr ⟨hpacked, hfull, hmax⟩)
    have hrel : (relocate h.packedLength.toNat f).length = f.length := length_relocate hpacked
    exact ⟨_, haccepted, length_preparedBuffer hpacked hfull, fun k hk => getElem?_grow_of_lt (hrel ▸ hk),
      fun k hk hk' => getElem?_grow_of_ge (hrel ▸ hk) hk'⟩

end Sys2Proof.Proofs
end

section
/-!
SUPPORT. The boot sequence (spec/44 R127, spec/70 R151): what a list of host moves makes of the machine, and each part of the
sequence as such a list.
-/

namespace Sys2Proof.Machine

variable {s t u : State} {ms ns : List HostMove}

/-! ## Lists of host moves -/

/-- The host's moves `ms`, taken one after the other whatever moves follow them, make `t` of `s`. -/
inductive Takes : List HostMove → State → State → Prop
  | nil (s : State) : Takes [] s s
  | cons {m : HostMove} {ms : List HostMove} {s t u : State}
      (first : ∀ rest, step { s with host := m :: rest } = .next { t with host := rest }) (others : Takes ms t u) :
      Takes (m :: ms) s u

theorem Takes.append (h : Takes ms s t) (h' : Takes ns t u) : Takes (ms ++ ns) s u := by
  induction h with
  | nil s => exact h'
  | cons first _ ih => exact .cons first (ih h')

/-- A machine whose host has exactly these moves takes them in as many steps. -/
theorem Takes.run (h : Takes ms s t) : Machine.run ms.length { s with host := ms } = .next { t with host := [] } := by
  induction h with
  | nil s => rfl
  | cons first _ ih =>
    rw [List.length_cons, Machine.run, first]
    exact ih

/-! ## Loading `BUF` and `EXP` -/

/-- The memory with `bytes` written from address `a` up. -/
def Memory.storeUp : Memory → Nat → List Byte → Memory
  | m, _, [] => m
  | m, a, b :: bytes => Memory.storeUp (m.store a b) (a + 1) bytes

theorem lookup_storeUp_below {a k : Nat} (hk : k < a) (bytes : List Byte) (m : Memory) :
    (m.storeUp a bytes).lookup k = m.lookup k := by
  induction bytes generalizing a m with
  | nil => rfl
  | cons b bytes ih => rw [Memory.storeUp, ih (by omega), Memory.lookup_store, if_neg hk.ne]

theorem lookup_storeUp {bytes : List Byte} (a : Nat) (m : Memory) (k : Nat) (hk : k < bytes.length) :
    (m.storeUp a bytes).lookup (a + k) = some bytes[k] := by
  induction bytes generalizing a m k with
  | nil => simp at hk
  | cons b bytes ih =>
    rw [Memory.storeUp]
    cases k with
    | zero => simp [lookup_storeUp_below]
    | succ k =>
      rw [← Nat.add_assoc, Nat.add_right_comm]
      exact ih (a + 1) _ k (by simpa using hk)

theorem takes_bufMoves (bytes : List Byte) (a : Nat) (hb : s.busy = false)
    (hmax : a + bytes.length ≤ s.params.maxBuf.toNat) :
    Takes (bufMoves a bytes) s { s with buf := s.buf.storeUp a bytes } := by
  induction bytes generalizing a s with
  | nil => exact .nil s
  | cons b bytes ih =>
    rw [List.length_cons] at hmax
    have haddr : (BitVec.ofNat 32 a).toNat = a := Nat.mod_eq_of_lt (by omega)
    have hrest : a + 1 + bytes.length ≤ s.params.maxBuf.toNat := by omega
    refine .cons (t := { s with buf := s.buf.store a b }) (fun rest => ?_) (ih (a + 1) hb hrest)
    rw [step_bufWrite hb (by omega), haddr]

theorem takes_expMoves (bytes : List Byte) (a : Nat) (hb : s.busy = false) (hv : s.params.hasVerify = true)
    (hlen : a + bytes.length ≤ s.expLen.toNat) :
    Takes (expMoves a bytes) s { s with exp := s.exp.storeUp a bytes } := by
  induction bytes generalizing a s with
  | nil => exact .nil s
  | cons b bytes ih =>
    rw [List.length_cons] at hlen
    have haddr : (BitVec.ofNat 32 a).toNat = a := Nat.mod_eq_of_lt (by omega)
    have hrest : a + 1 + bytes.length ≤ s.expLen.toNat := by omega
    refine .cons (t := { s with exp := s.exp.store a b }) (fun rest => ?_) (ih (a + 1) hb hv hrest)
    rw [step_expWrite hb hv (by omega), haddr]

/-- The host's moves for an expected output, if there is one: it supplies an `EXP` of that length and writes it. -/
def expLoads : Option (List Byte) → List HostMove
  | none => []
  | some e => .expSupply (BitVec.ofNat 32 e.length) :: expMoves 0 e

theorem bootMoves_eq (h : Header) (b : List Byte) (expected : Option (List Byte)) (irqEn : Bool) :
    bootMoves h b expected irqEn =
      bufMoves 0 b ++ expLoads expected ++ programMoves h ++ [.regWrite 0x00 32 (startWord expected.isSome irqEn)] := by
  cases expected <;> rfl

/-- The machine with the prepared bytes in `BUF`, and the expected output, if there is one, in `EXP` (spec/70 R151). -/
def State.loaded (s : State) (b : List Byte) (expected : Option (List Byte)) : State :=
  { s with
    buf := s.buf.storeUp 0 b
    exp := expected.elim s.exp (s.exp.storeUp 0)
    expLen := expected.elim s.expLen fun e => BitVec.ofNat 32 e.length }

/-- The loads of the boot sequence. -/
theorem takes_loads {b : List Byte} {expected : Option (List Byte)} (hb : s.busy = false)
    (hmax : b.length ≤ s.params.maxBuf.toNat)
    (he : ∀ e, expected = some e → s.params.hasVerify = true ∧ e.length < 2 ^ 32) :
    Takes (bufMoves 0 b ++ expLoads expected) s (s.loaded b expected) := by
  refine (takes_bufMoves b 0 hb (by omega)).append ?_
  cases expected with
  | none => exact .nil _
  | some e =>
    obtain ⟨hv, hlen⟩ := he e rfl
    have hsize : (BitVec.ofNat 32 e.length).toNat = e.length := Nat.mod_eq_of_lt hlen
    let supplied : State := { s with buf := s.buf.storeUp 0 b, expLen := BitVec.ofNat 32 e.length }
    have hfits : 0 + e.length ≤ supplied.expLen.toNat := by rw [Nat.zero_add]; exact hsize.ge
    exact .cons (t := supplied) (fun _ => step_expSupply (s := { s with buf := s.buf.storeUp 0 b }) hb hv _)
      (takes_expMoves e 0 hb hv hfits)

theorem bufByte_loaded (s : State) {b : List Byte} (expected : Option (List Byte)) (k : Nat) (hk : k < b.length) :
    (s.loaded b expected).bufByte k = b[k] := by
  have hbyte := lookup_storeUp 0 s.buf k hk
  rw [Nat.zero_add] at hbyte
  simp [State.bufByte, State.loaded, hbyte]

theorem expByte_loaded (s : State) (b : List Byte) {e : List Byte} (k : Nat) (hk : k < e.length) :
    (s.loaded b (some e)).expByte k = e[k] := by
  have hbyte := lookup_storeUp 0 s.exp k hk
  rw [Nat.zero_add] at hbyte
  simp [State.expByte, State.loaded, hbyte]

/-! ## The programming convention and START -/

theorem writeReg_setHost (r : Reg) (v : Word) (s : State) (rest : List HostMove) :
    writeReg r v { s with host := rest } = { writeReg r v s with host := rest } := by
  cases r <;> rfl

theorem Takes.regWrite {offset : BitVec 6} {v : Word} (hb : s.busy = false) (hal : offset.toNat % 4 = 0)
    (hne : regAt offset ≠ .ctrl) (others : Takes ms (writeReg (regAt offset) v s) u) :
    Takes (.regWrite offset 32 v :: ms) s u :=
  .cons (fun rest => by
    rw [step_regWrite_of_not_busy hb hal (startOf_regWrite_of_ne_ctrl hne), writeReg_setHost]) others

/-- The registers as the convention leaves them (spec/44 R127). -/
def State.programmed (s : State) (h : Header) : State :=
  { s with
    rp := h.packedLength
    wp := h.fullLength
    bufLen := h.fullLength
    prefixLen := h.unpackedPrefix
    pmode := h.packMode
    sr := h.shiftSeed }

theorem takes_programMoves (hb : s.busy = false) (h : Header) : Takes (programMoves h) s (s.programmed h) := by
  have keep (x : Byte) : (x.setWidth 32).setWidth 8 = x := by simp
  have taken : Takes (programMoves h) s
      { s.programmed h with
        pmode := (h.packMode.setWidth 32).setWidth 8, sr := (h.shiftSeed.setWidth 32).setWidth 8 } :=
    .regWrite hb rfl (by decide) <| .regWrite hb rfl (by decide) <| .regWrite hb rfl (by decide) <|
      .regWrite hb rfl (by decide) <| .regWrite hb rfl (by decide) <| .regWrite hb rfl (by decide) <| .nil _
  rw [keep, keep] at taken
  exact taken

/-- The START of the boot sequence, its checks passed and the host's duties kept. -/
theorem takes_start {v q : Bool} (hb : s.busy = false) (hm : s.pmode.toNat ≤ 8) (hrp : s.rp.toNat ≤ s.bufLen.toNat)
    (hwp : s.wp.toNat ≤ s.bufLen.toNat) (hmax : s.bufLen.toNat ≤ s.params.maxBuf.toNat)
    (he : (v && s.params.hasVerify) = true → s.wp.toNat ≤ s.expLen.toNat) :
    Takes [.regWrite 0x00 32 (startWord v q)] s (s.setCtrl v q).armed.launched := by
  refine .cons (fun rest => ?_) (.nil _)
  have hstart : startOf (.regWrite 0x00 32 (startWord v q)) = some (.start v q) := decodeCtrl_startWord v q
  rw [step_of_start rfl hstart]
  exact (exec_start_of_not_busy (s := { s with host := rest }) hb v q).trans
    (beginDecode_of_checks (s := ({ s with host := rest }.setCtrl v q).armed) hm (positionBad_of_le hrp hwp) hmax
      fun hv => he (verifying_setCtrl_armed s v q ▸ hv))

/-! ## The whole sequence -/

section

variable {h : Header} {b : List Byte} {expected : Option (List Byte)}
  (he : ∀ e, expected = some e → s.params.hasVerify = true ∧ h.fullLength.toNat ≤ e.length ∧ e.length < 2 ^ 32)

include he

/-- The `VERIFY_EN` that START writes is not held at 0 by a missing comparator. -/
theorem isSome_and_hasVerify : (expected.isSome && s.params.hasVerify) = expected.isSome := by
  cases expected with
  | none => rfl
  | some e => exact (he e rfl).1

theorem expLen_loaded {e : List Byte} (hx : expected = some e) : (s.loaded b expected).expLen.toNat = e.length := by
  subst hx
  exact Nat.mod_eq_of_lt (he e rfl).2.2

/-- From any state that is not BUSY the moves of the boot sequence load the memories, program the registers and begin the
decode. -/
theorem takes_bootMoves (irqEn : Bool) (hb : s.busy = false) (hm : h.packMode.toNat ≤ 8)
    (hlen : b.length = h.fullLength.toNat) (hpacked : h.packedLength.toNat ≤ h.fullLength.toNat)
    (hmax : h.fullLength.toNat ≤ s.params.maxBuf.toNat) :
    Takes (bootMoves h b expected irqEn) s
      (((s.loaded b expected).programmed h).setCtrl expected.isSome irqEn).armed.launched := by
  have loads : Takes (bufMoves 0 b ++ expLoads expected) s (s.loaded b expected) :=
    takes_loads hb (hlen.trans_le hmax) fun e hx => ⟨(he e hx).1, (he e hx).2.2⟩
  have program : Takes (programMoves h) (s.loaded b expected) ((s.loaded b expected).programmed h) :=
    takes_programMoves (s := s.loaded b expected) hb h
  have hduty : (expected.isSome && s.params.hasVerify) = true →
      h.fullLength.toNat ≤ (s.loaded b expected).expLen.toNat := by
    rw [isSome_and_hasVerify he, Option.isSome_iff_exists]
    rintro ⟨e, hx⟩
    exact (he e hx).2.1.trans_eq (expLen_loaded he hx).symm
  rw [bootMoves_eq]
  exact (loads.append program).append
    (takes_start (s := (s.loaded b expected).programmed h) hb hm hpacked le_rfl hmax hduty)

end

end Sys2Proof.Machine
end

section
/-! The statement settled: O60. -/

open Sys2Proof.Machine

namespace Sys2Proof.Proofs

/-- Settles O60: the refusals of the host; and the moves of the boot sequence, taken one after the other (`takes_bootMoves`),
the lengths of the prepared file being what START checks. -/
theorem bootSequenceBeginsTheDecode : Obligations.BootSequenceBeginsTheDecode := by
  refine ⟨fun p f => ⟨fun hbad => ?_, fun hlen hmagic => ⟨?_, fun hlens => ?_⟩⟩, ?_⟩
  · have hr := recognised_eq_false_iff.mpr hbad
    exact ⟨by simp [detect, hr], prepare_of_not_recognised hr⟩
  · exact if_pos (recognised_iff.mpr ⟨hlen, hmagic⟩)
  · exact prepare_of_refused (recognised_iff.mpr ⟨hlen, hmagic⟩) (hostRefuses_iff.mpr hlens)
  · intro s f b h expected irqEn hb hprep hm he hs
    obtain ⟨hlen, hpacked, hmax⟩ := prepare_lengths hprep
    have hrun := (takes_bootMoves he irqEn hb hm hlen hpacked hmax).run
    rw [← hs] at hrun
    have hver : (((s.loaded b expected).programmed h).setCtrl expected.isSome irqEn).verifyEnabled = expected.isSome :=
      (verifyEnabled_setCtrl _ _ _).trans (isSome_and_hasVerify he)
    refine ⟨_, hrun, rfl, rfl, rfl, rfl, rfl, rfl, rfl, rfl, rfl, hver, isSome_and_hasVerify he, rfl,
      bufByte_loaded s expected, hlen, fun e hx => ⟨expLen_loaded (b := b) he hx, ?_⟩⟩
    subst hx
    exact expByte_loaded s b

end Sys2Proof.Proofs
end

/-! # Faults (spec/60): where a fetch ends, the checks of START, fault entry, and what the host observes -/

section
/-!
SUPPORT. The fetch that fails: which bits a failing compression type had before it, and so which `KIND` its fault leaves.
-/

namespace Sys2Proof.Machine

/-! ## Where a compression type ends too early (spec/42 R97, R104) -/

/-- The count and a run of single calls meet the end of the stream together: a count that fails has met zeros only. -/
theorem readBitList_of_countZeros_error {n i : Nat} {s : State} {e : Stop}
    (h : countZeros readBit n i s = .error e) : readBitList n s = .error e := by
  induction n generalizing i s with
  | zero => simp [countZeros] at h
  | succ n ih =>
    rcases hb : readBit s with e' | ⟨_ | _, u⟩
    · simpa [countZeros, readBitList, hb] using h
    · have hrest : readBitList n u = .error e := ih (i := i + 1) (by simpa [countZeros, hb] using h)
      simp [readBitList, hb, hrest]
    · simp [countZeros, hb] at h

/-- Once the index is known only the extra bits can be missing, and only CT4 and CT5 have any. -/
theorem count_of_decodeType_error {ε σ : Type} {next : BitSource ε σ} {st mid : σ} {k : Nat} {e : ε}
    (hc : countZeros next maxZeros 0 st = .ok (k, mid)) (h : decodeType next st = .error e) : k = 4 ∨ k = 5 := by
  have hk : k ≤ 5 := (countZeros_maxZeros_eq_ok_iff.mp hc).1
  match k with
  | 0 | 1 | 2 | 3 => simp [decodeType, hc] at h
  | 4 => exact .inl rfl
  | 5 => exact .inr rfl

/-- The index of a type with extra bits takes five bits, whichever it is. -/
theorem length_unaryCode_of_extra {k : Nat} (h : k = 4 ∨ k = 5) : (unaryCode maxZeros k).length = 5 := by
  rcases h with rfl | rfl <;> rfl

theorem ctypeRow_kind_of_extra {k : Nat} (h : k = 4 ∨ k = 5) : (ctypeRow k).kind = 3 := by
  rcases h with rfl | rfl <;> rfl

/-- The core stands in a compression type whose extra bits it comes to: the five bits of the index are there. -/
def State.reachesExtraBits (s : State) : Prop := s.tokenField = .type ∧ ∃ r, readBitList 5 s = .ok r

/-- `KIND` where the fetch of a token field from `s` fails: already written inside the extra bits of a type, which only kind 3
has, and unchanged elsewhere (spec/42 R97, R108). -/
def KindAtFailure (s : State) (k : BitVec 2) : Prop :=
  (s.reachesExtraBits → k = 3) ∧ (¬ s.reachesExtraBits → k = s.kind)

theorem withKind_of_count_error {s : State} {e x : Stop} (h : countZeros readBit maxZeros 0 s = .error x) :
    e.withKind .type s = e := by
  simp only [Stop.withKind, h]

theorem withKind_of_count {s t u : State} {c : Cause} {i : Nat} (h : countZeros readBit maxZeros 0 s = .ok (i, u)) :
    (Stop.raise c t).withKind .type s = .raise c (t.setKind (ctypeRow i).kind) := by
  simp only [Stop.withKind, h]

/-- Without the index known `KIND` stays. -/
theorem kindAtFailure_of_not_reached {s : State} (h : ¬ s.reachesExtraBits) : KindAtFailure s s.kind :=
  ⟨fun hr => absurd hr h, fun _ => rfl⟩

theorem setKind_self {t : State} {k : BitVec 2} (h : t.kind = k) : t.setKind k = t := by
  subst h
  rfl

/-- A compression type that fails: by whether its count completed. -/
theorem withKind_type {s t : State} {c : Cause} (hf : s.tokenField = .type) (hk : t.kind = s.kind)
    (h : decodeField readBit .type s = .error (.raise c t)) :
    ∃ k, (Stop.raise c t).withKind .type s = .raise c (t.setKind k) ∧ KindAtFailure s k := by
  rcases hc : countZeros readBit maxZeros 0 s with x | ⟨i, u⟩
  · refine ⟨s.kind, by rw [withKind_of_count_error hc, setKind_self hk], kindAtFailure_of_not_reached ?_⟩
    rintro ⟨-, r, hr⟩
    have hlist : readBitList 5 s = .error x := readBitList_of_countZeros_error hc
    cases hlist.symm.trans hr
  · have hi := count_of_decodeType_error hc h
    have hd := delivers_readBit.mp (countZeros_maxZeros_eq_ok_iff.mp hc).2
    rw [length_unaryCode_of_extra hi] at hd
    refine ⟨(ctypeRow i).kind, withKind_of_count hc, fun _ => ctypeRow_kind_of_extra hi, fun hno => ?_⟩
    exact absurd ⟨hf, _, hd⟩ hno

/-- A token field that fails: only a compression type writes `KIND` before it ends. -/
theorem withKind_field {s t : State} {c : Cause} {f : Field} (hf : s.nextField = some f) (hk : t.kind = s.kind)
    (h : decodeField readBit f s = .error (.raise c t)) :
    ∃ k, (Stop.raise c t).withKind f s = .raise c (t.setKind k) ∧ KindAtFailure s k := by
  have other (hf : s.tokenField ≠ .type) (hw : (Stop.raise c t).withKind f s = .raise c t) :
      ∃ k, (Stop.raise c t).withKind f s = .raise c (t.setKind k) ∧ KindAtFailure s k :=
    ⟨s.kind, by rw [hw, setKind_self hk], kindAtFailure_of_not_reached fun hr => hf hr.1⟩
  rcases nextField_some hf with ⟨hp, rfl⟩ | ⟨hp, row, -, rfl⟩ | ⟨hp, rfl⟩
  · exact withKind_type hp hk h
  · exact other (by simp [hp]) rfl
  · exact other (by simp [hp]) rfl

/-! ## Where a fetch ends too early (spec/60 R133) -/

variable {s : State} {e : Stop}

/-- With legal positions and pack mode a token field fails only at the end of the stream. -/
theorem fetchField_error_at_streamEnd (h : fetchField s = .error e) (hle : s.rp.toNat ≤ s.bufLen.toNat)
    (hm : s.pmode.toNat ≤ 8) :
    ∃ k, e = .raise .readUnderflow ((s.setCursor 0 sentinel).setKind k) ∧ KindAtFailure s k := by
  rcases hn : s.nextField with _ | f
  · exact absurd (nextField_none hn) (Option.isSome_iff_ne_none.mp (offRow_isSome hm))
  rcases hd : decodeField readBit f s with x | r <;> simp only [fetchField, hn, hd, reduceCtorEq, Except.error.injEq] at h
  obtain ⟨t, hc, hsr, ⟨h0, rfl⟩ | ⟨hlt, -⟩⟩ := decodeField_error hd
  · obtain ⟨rp, sr, rfl, -⟩ := hc.eq_setCursor
    obtain rfl : rp = 0 := h0
    obtain rfl : sr = sentinel := hsr
    obtain ⟨k, hw, hk⟩ := withKind_field (t := s.setCursor 0 sentinel) hn rfl hd
    exact ⟨k, h.symm.trans hw, hk⟩
  · obtain ⟨rp, sr, rfl, hrp⟩ := hc.eq_setCursor
    exact absurd (hrp.trans hle) hlt.not_ge

theorem fetchLiteral_error_at_streamEnd (h : fetchLiteral s = .error e) (hle : s.rp.toNat ≤ s.bufLen.toNat) :
    s.rp = 0 ∧ e = .raise .readUnderflow s := by
  rcases hb : readByte s with e' | ⟨b, u⟩ <;> simp only [fetchLiteral, hb, reduceCtorEq, Except.error.injEq] at h
  subst h
  rcases readByte_error hb with h | ⟨hlt, -⟩
  · exact h
  · exact absurd hle hlt.not_ge

/-- What is fetched outside `TOKEN` is a literal byte. -/
theorem fetchLiteral_of_fetch (h : fetch s = some (.error e)) (hp : s.phase ≠ .token) : fetchLiteral s = .error e := by
  cases hs : s.phase with
  | token => exact absurd hs hp
  | prefixRun | literal =>
    have hrun : s.inLiteralRun := by simp [State.inLiteralRun, hs]
    by_cases hc : s.cnt = 0
    · simp [fetch, hs, hc] at h
    · exact Option.some.inj ((fetch_literalRun hrun hc).symm.trans h)
  | idle | copy | done | fault => simp [fetch, hs] at h

/-- With legal positions and pack mode the core fails to fetch only at the end of the stream, which a token field finds with
the sentinel in `SR` and a literal byte with any value there. -/
theorem fetch_error_at_streamEnd (h : fetch s = some (.error e)) (hle : s.rp.toNat ≤ s.bufLen.toNat)
    (hm : s.pmode.toNat ≤ 8) :
    (s.phase = .token ∧ ∃ k, e = .raise .readUnderflow ((s.setCursor 0 sentinel).setKind k) ∧ KindAtFailure s k) ∨
    (s.phase ≠ .token ∧ s.rp = 0 ∧ e = .raise .readUnderflow s) := by
  by_cases hp : s.phase = .token
  · have hf : fetchField s = .error e := by simpa only [fetch, hp, Option.some.injEq] using h
    exact .inl ⟨hp, fetchField_error_at_streamEnd hf hle hm⟩
  · exact .inr ⟨hp, fetchLiteral_error_at_streamEnd (fetchLiteral_of_fetch h hp) hle⟩

/-- The step of such a fetch takes the fault (spec/60 R142). -/
theorem step_of_fetch_raise {c : Cause} {t : State} (hs : s.host = []) (h : fetch s = some (.error (.raise c t))) :
    step s = .next (t.faultEntry c) :=
  (step_of_host_nil hs).trans (coreStep_of_fetch_raise h)

end Sys2Proof.Machine
end

section
/-! SUPPORT. The checks of START that fail, fault entry, and the read-outs the host observes (spec/60 R138, R139, R142, R145). -/

namespace Sys2Proof.Machine

variable {s t : State}

/-! ## The checks of START -/

theorem beginDecode_badPmode (hm : 8 < s.pmode.toNat) : beginDecode s = .next (s.faultEntry .badPmode) := if_pos hm

theorem positionBad_of_lt (h : s.bufLen.toNat < s.rp.toNat ∨ s.bufLen.toNat < s.wp.toNat) : s.positionBad = true := by
  simpa [State.positionBad, BitVec.lt_def] using h

/-- The positions are checked after the pack mode (spec/60 R139). -/
theorem beginDecode_badPosition (hm : s.pmode.toNat ≤ 8) (hp : s.positionBad = true) :
    beginDecode s = .next (s.faultEntry .badPosition) := by
  rw [beginDecode, if_neg hm.not_gt, if_pos hp]

/-- START before its checks, field by field: the control bits written, the fault registers cleared, `VERIFY` latched
(spec/42 R94). -/
theorem setCtrl_armed (s : State) (v q : Bool) :
    (s.setCtrl v q).armed =
      { s with
        verifyEn := v && s.params.hasVerify
        irqEn := q
        faultCause := 0
        mmPos := 0
        mmData := 0
        verify := v && s.params.hasVerify } := by
  rw [State.armed, verifyEnabled_setCtrl]
  rfl

/-! ## The interrupt line -/

theorem irq_eq_true_iff : s.irq = true ↔ s.irqEn = true ∧ (s.phase = .done ∨ s.phase = .fault) := by
  simp [State.irq]

/-- The line is low outside DONE and FAULT, whatever its enable. -/
theorem irq_of_busy (hb : s.busy = true) : s.irq = false := by
  cases hp : s.phase with
  | prefixRun | token | copy | literal => simp [State.irq, hp]
  | idle | done | fault => simp [State.busy, Phase.busy, hp] at hb

theorem irq_faultEntry (s : State) (c : Cause) : (s.faultEntry c).irq = s.irqEn := by
  simp [State.irq]

/-- A START that does not fault leaves the core BUSY: it is ignored there, or a decode begins (spec/44 R121). -/
theorem busy_of_start {v q : Bool} (h : exec (.start v q) s = .next t) (hp : t.phase ≠ .fault) : t.busy = true := by
  rcases execStart_next h with ⟨hb, rfl⟩ | ⟨-, hd⟩
  · exact hb
  · rcases beginDecode_next hd with ⟨-, rfl⟩ | ⟨-, -, rfl⟩ | ⟨-, -, -, -, rfl⟩
    · exact absurd rfl hp
    · exact absurd rfl hp
    · rfl

/-! ## The host's report (spec/44 R128) -/

/-- Only an IntegrityMismatch has code 0x21 (spec/60 R132). -/
theorem code_eq_integrityMismatch_iff {c : Cause} : c.code = Cause.integrityMismatch.code ↔ c = .integrityMismatch := by
  cases c <;> decide

theorem hostReport_of_done (full : Nat) (hp : s.phase = .done) :
    hostReport full s = some (.ok ((List.range full).map s.bufByte)) := by
  simp only [hostReport, hp]

/-- The low byte of `MM_DATA` is the byte expected, the high byte the actual one (spec/10 R38). -/
theorem hostReport_faultEntry (full : Nat) (s : State) (c : Cause) :
    hostReport full (s.faultEntry c) = some (.error
      (if c = .integrityMismatch then .integrityMismatch s.mmPos (s.mmData.extractLsb' 0 8) (s.mmData.extractLsb' 8 8)
       else .malformedStream)) := by
  have hlow : s.mmData.setWidth 8 = s.mmData.extractLsb' 0 8 := BitVec.setWidth_eq_extractLsb' (by decide)
  simp only [hostReport, faultEntry_phase, faultEntry_faultCause, code_eq_integrityMismatch_iff, faultEntry_mmPos,
    faultEntry_mmData, hlow]

theorem hostReport_of_not_ended (full : Nat) (hd : s.phase ≠ .done) (hf : s.phase ≠ .fault) : hostReport full s = none := by
  cases hp : s.phase with
  | done => exact absurd hp hd
  | fault => exact absurd hp hf
  | idle | prefixRun | token | copy | literal => simp only [hostReport, hp]

end Sys2Proof.Machine
end

section
/-! The statements settled: O14, O50, O38, O48, O49. -/

open Sys2Proof.Machine

namespace Sys2Proof.Proofs

/-- Settles O14: a token field fails with the sentinel loaded and `KIND` by `KindAtFailure`; a literal byte fails where the state
stands. -/
theorem fetchFailsOnlyAtStreamEnd : Obligations.FetchFailsOnlyAtStreamEnd := by
  intro s e hf hle hm
  rcases fetch_error_at_streamEnd hf hle hm with ⟨hp, k, rfl, hin, hout⟩ | ⟨hp, h0, rfl⟩
  · refine ⟨0x80, k, rfl, fun _ => rfl, fun hne => absurd hp hne, fun _ ht hr => hin ⟨ht, hr⟩, fun hno => hout ?_,
      fun hs => step_of_fetch_raise hs hf⟩
    rintro ⟨ht, r, hr⟩
    rcases hno with hne | hne | hne
    · exact hne hp
    · exact hne ht
    · exact hne r hr
  · have hself : { s with rp := 0, sr := s.sr, kind := s.kind } = s := by rw [← h0]
    refine ⟨s.sr, s.kind, by rw [hself], fun ht => absurd ht hp, fun _ => ⟨rfl, h0⟩, fun ht => absurd ht hp, fun _ => rfl,
      fun hs => ?_⟩
    rw [step_of_fetch_raise hs hf, ← h0]
    rfl

/-- Settles O50: the first part is `coreStep_of_not_busy`; the second reads the phase table (O51) from FAULT, which is not
BUSY. -/
theorem faultIsLeftOnlyByStartOrReset : Obligations.FaultIsLeftOnlyByStartOrReset := by
  refine ⟨fun s hs hb => (step_of_host_nil hs).trans (coreStep_of_not_busy hb), fun s t hp h hne => ?_⟩
  rcases phaseChangesFollowTheTable s t h (hp ▸ hne) with ⟨hh, -⟩ | ⟨-, ⟨m, hh, hm⟩, -⟩ | ⟨-, hb, -⟩
  · obtain ⟨rest, hs⟩ := List.head?_eq_some_iff.mp hh
    exact ⟨_, rest, hs, .inl rfl⟩
  · obtain ⟨rest, hs⟩ := List.head?_eq_some_iff.mp hh
    exact ⟨m, rest, hs, .inr hm⟩
  · simp [State.busy, Phase.busy, hp] at hb

/-- Settles O38: the checks are made on the state with the control bits written and `VERIFY` latched, the pack mode first. -/
theorem startChecksParameters : Obligations.StartChecksParameters := by
  intro s v q hb
  refine ⟨fun hm => ?_, fun hm hpos => ?_⟩
  · rw [exec_start_of_not_busy hb, setCtrl_armed]
    exact beginDecode_badPmode hm
  · rw [exec_start_of_not_busy hb, setCtrl_armed]
    exact beginDecode_badPosition hm (positionBad_of_lt hpos)

/-- Settles O48: after a START without a fault the core is BUSY, where the line is low; and the report phase by phase. -/
theorem interruptLineFollowsState : Obligations.InterruptLineFollowsState := by
  refine ⟨fun _ => irq_eq_true_iff, fun s t v q h hp => irq_of_busy (busy_of_start h hp), fun s full => ⟨fun hp => ?_,
    hostReport_faultEntry full s, hostReport_of_not_ended full⟩⟩
  refine ⟨_, hostReport_of_done full hp, by simp, fun k hk => by simp [hk]⟩

/-- Settles O49: fault entry is the update itself, with the code of its cause (spec/60 R132). -/
theorem faultEntryRecordsTheCause : Obligations.FaultEntryRecordsTheCause :=
  fun s => ⟨fun c => ⟨rfl, irq_faultEntry s c⟩, rfl, rfl, rfl, rfl, rfl, rfl, rfl⟩

end Sys2Proof.Proofs
end

section
/-! SUPPORT. Reset: the step it takes, and what its cleared enables give (spec/70 R149, R150). -/

namespace Sys2Proof.Machine

variable {s : State}

/-- Reset is taken in every state, BUSY or not (spec/70 R149). -/
theorem step_of_host_reset {rest : List HostMove} (h : s.host = .reset :: rest) :
    step s = .next (resetCore { s with host := rest }) := by
  simp [step, h, hostStep, startOf, hostAct]

theorem irq_of_disabled (h : s.irqEn = false) : s.irq = false := by
  simp [State.irq, h]

/-- `CTRL` reads 0 while both of its enables are 0, with or without the comparator (spec/10 R28). -/
theorem ctrl_of_disabled (hv : s.verifyEn = false) (hq : s.irqEn = false) : s.ctrl = 0 := by
  simp [State.ctrl, State.verifyEnabled, hv, hq]

end Sys2Proof.Machine
end

section
/-! The statements settled: O46, O47, O53. -/

open Sys2Proof.Machine

namespace Sys2Proof.Proofs

/-- Settles O46: the step is `resetCore`, whose fields are those of `State.reset` but for the parameters, the memories and the
host's side; the line is low since reset clears its enable. -/
theorem resetLoadsResetValues : Obligations.ResetLoadsResetValues :=
  fun _ _ => ⟨_, step_of_host_reset rfl, rfl, rfl, rfl, rfl, rfl, rfl, rfl, rfl, rfl, rfl, rfl, rfl, rfl, rfl, rfl,
    irq_of_disabled rfl, rfl, fun _ => rfl, fun _ => rfl⟩

/-- Settles O47: each register is a field of `State.reset`; `CTRL` and the `IRQ` line follow from the cleared enables. -/
theorem powerUpHasResetValues : Obligations.PowerUpHasResetValues :=
  ⟨rfl, rfl, rfl, rfl, rfl, rfl, ctrl_of_disabled rfl rfl, rfl, rfl, rfl, rfl, rfl, rfl, irq_of_disabled rfl, rfl⟩

/-- Settles O53: after reset the core is not BUSY, the memories list nothing, and no fault is recorded. -/
theorem resetMeetsTheInvariant : Obligations.ResetMeetsTheInvariant := by
  obtain ⟨hbuf, hexp⟩ := reset_memory_wf
  have hidle : State.reset.phase ≠ .fault := nofun
  exact .of_not_busy rfl hbuf hexp ⟨fun _ => rfl, fun h => absurd h hidle⟩ (fun _ => ⟨rfl, rfl⟩) fun _ => ⟨rfl, rfl⟩

end Sys2Proof.Proofs
end
